-- ==== Sys2Proof/Word.lean ====
section
/-! DEFINITION. The widths of the CRCPK block (00_scope.md R7, R9): every value is unsigned. -/

namespace Sys2Proof

/-- One character, one 8-bit octet (00_scope.md R7, R11). -/
abbrev Octet := BitVec 8

/-- A value of the `CRC` register (10_state.md R23). -/
abbrev Crc16 := BitVec 16

/-- One command as the command port takes it (30_encoding.md R60). -/
abbrev CommandWord := BitVec 32

/-- A read-port address (20_memory.md R40). -/
abbrev Address := BitVec 8

/-- A read-port datum (20_memory.md R40). -/
abbrev ReadDatum := BitVec 16

end Sys2Proof
end

