-- ==== Sys2Proof/Config.lean ====
section
/-! DEFINITION. What the spec leaves open: the draws of the registers before the first reset
(10_state.md R32), constants without a body, and the host's parameters (00_scope.md R8), which
every function that needs them takes as an argument. -/

namespace Sys2Proof

/-- `CRC` before the first reset: any value (10_state.md R32; 93_implementation_defined.md U1). -/
opaque Config.powerOnCrc : Crc16

/-- `CK[0..2]` before the first reset: any values (10_state.md R32). -/
opaque Config.powerOnCk : Vector Octet 3

/-- `RQ` before the first reset: any value (10_state.md R32). -/
opaque Config.powerOnRq : Octet

/-- `CP` before the first reset: any value (10_state.md R32). -/
opaque Config.powerOnCp : Octet

/-- `NF` before the first reset: any value (10_state.md R32). -/
opaque Config.powerOnNf : BitVec 4

/-- `STATUS` before the first reset: any value (10_state.md R32). -/
opaque Config.powerOnStatus : Octet

/-- `TXT[0..16]` before the first reset: any values (10_state.md R32). -/
opaque Config.powerOnTxt : Vector Octet 17

/-- The abbreviation of a settings field, `Pa` for example (00_scope.md R6). -/
abbrev FieldName := String

/-- The three settings kinds (00_scope.md R13). -/
inductive SettingsKind where
  /-- `xTU`. -/
  | ptu
  /-- `xRU`. -/
  | precipitation
  /-- `xSU`. -/
  | supervisor
  deriving DecidableEq, Repr

/-- The host's open parameters (00_scope.md R8). -/
structure HostParams where
  /-- `FIELD_ORDER` of the Precipitation kind: open (92_eei_decisions.md D21). -/
  precipitationOrder : List FieldName
  /-- `FIELD_ORDER` of the Supervisor kind: open (92_eei_decisions.md D21). -/
  supervisorOrder : List FieldName
  /-- `CHECKSUM_REQUIRED`: whether the protocol variant carries a checksum (92_eei_decisions.md D22). -/
  checksumRequired : Bool
  deriving DecidableEq, Repr

end Sys2Proof
end

