-- ==== Sys2Proof/Machine/State.lean ====
section
/-! DEFINITION. The state of the block (10_state.md R20), the host's side of its ports, and the
state right after reset (10_state.md R31). -/

namespace Sys2Proof.Machine

/-- One thing the host does to the block (00_scope.md R5). -/
inductive HostAction where
  /-- Writes one 32-bit word to the command port (20_memory.md R48). -/
  | command (w : CommandWord)
  /-- Makes a READ transaction (42_status.md R132). -/
  | read (a : Address)
  /-- Asserts the reset input (70_reset_and_hazards.md R170). -/
  | assertReset
  deriving DecidableEq, Repr

/-- The block's registers, which are all its state (10_state.md R20), and after them the model's own
record of what the host has issued and been given (notes/assumptions/1.md, 3.md). -/
structure State where
  /-- `CRC` (10_state.md R23). -/
  crc : Crc16
  /-- `CK[0..2]` (10_state.md R24). -/
  ck : Vector Octet 3
  /-- `RQ` (10_state.md R25). -/
  rq : Octet
  /-- `CP` (10_state.md R25). -/
  cp : Octet
  /-- `NF` (10_state.md R26). -/
  nf : BitVec 4
  /-- `STATUS`: M in bit 0, ERR in bits 7:4 (10_state.md R28). -/
  status : Octet
  /-- `TXT[0..16]` (10_state.md R27). -/
  txt : Vector Octet 17
  /-- What the host has issued and the block has not taken, oldest first (20_memory.md R49). -/
  pending : List HostAction
  /-- The data that READs have returned, oldest first (42_status.md R132). -/
  readData : List ReadDatum
  /-- The reset input has been asserted (70_reset_and_hazards.md R172). -/
  wasReset : Bool
  deriving DecidableEq, Repr

/-- The reasons the machine stops: none. No error stops, halts or locks the block, and it takes no
trap (60_exceptions.md R143, R146); its errors are recorded in `STATUS.ERR`. -/
inductive Fault
  deriving DecidableEq, Repr

/-- The reasons a step has no meaning. -/
inductive Refusal where
  /-- Raised by an arm of `exec` whose command has no meaning yet; no arm does. Safe. -/
  | notModelled (mnemonic : String)
  /-- Raised by a step that takes a command or a READ before the first reset
  (93_implementation_defined.md U2, "`refuse`: the model gives it no meaning"). Safe. -/
  | beforeFirstReset
  deriving DecidableEq, Repr

/-- The machine right after reset: every register as 10_state.md R31 states it, nothing issued. -/
def State.reset : State where
  crc := 0x0000#16
  ck := #v[0x00#8, 0x00#8, 0x00#8]
  rq := 0x00#8
  cp := 0x00#8
  nf := 0#4
  status := 0x00#8
  txt := Vector.replicate 17 0x00#8
  pending := []
  readData := []
  wasReset := true

/-- The machine before its first reset: every register is a draw (10_state.md R32). -/
def State.powerOn : State where
  crc := Config.powerOnCrc
  ck := Config.powerOnCk
  rq := Config.powerOnRq
  cp := Config.powerOnCp
  nf := Config.powerOnNf
  status := Config.powerOnStatus
  txt := Config.powerOnTxt
  pending := []
  readData := []
  wasReset := false

end Sys2Proof.Machine
end

