-- ==== Sys2Proof/Machine/Flags.lean ====
section
/-! DEFINITION. The fields of `STATUS` (10_state.md R28): the flag M and the error code ERR. A
field's write leaves the other bits, the reserved ones among them, as they are. -/

namespace Sys2Proof.Machine

/-- M, bit 0 of `STATUS` (10_state.md R28). -/
def statusM (st : Octet) : Bool := st.getLsbD 0

/-- ERR, bits 7:4 of `STATUS` (10_state.md R28). -/
def statusErr (st : Octet) : BitVec 4 := st.extractLsb' 4 4

/-- The reserved bits 3:1 of `STATUS` (10_state.md R28). -/
def statusReserved (st : Octet) : BitVec 3 := st.extractLsb' 1 3

/-- `STATUS` with M written. -/
def statusWithM (st : Octet) (m : Bool) : Octet := (st &&& 0xFE#8) ||| BitVec.ofNat 8 m.toNat

/-- `STATUS` with ERR written. -/
def statusWithErr (st : Octet) (e : BitVec 4) : Octet := (st &&& 0x0F#8) ||| (e.setWidth 8 <<< 4)

/-- `STATUS.M` (10_state.md R29). -/
def State.m (s : State) : Bool := statusM s.status

/-- `STATUS.ERR` (60_exceptions.md R140). -/
def State.err (s : State) : BitVec 4 := statusErr s.status

/-- `STATUS.M <- m`. -/
def State.setM (s : State) (m : Bool) : State := { s with status := statusWithM s.status m }

/-- `STATUS.ERR <- e`. -/
def State.setErr (s : State) (e : BitVec 4) : State := { s with status := statusWithErr s.status e }

end Sys2Proof.Machine
end

