-- ==== Sys2Proof/Syntax.lean ====
section
/-! DEFINITION. The twelve commands of the opcode map (30_encoding.md R62), operands in the order
the assembler writes them (30_encoding.md R68). -/

namespace Sys2Proof

/-- The mask selector: `RQ` is 0 and `CP` is 1 (30_encoding.md R62, R68). -/
inductive MaskSel where
  | rq
  | cp
  deriving DecidableEq, Repr

/-- A command. Index operands are numbers as `IDX` carries them; their legal ranges
(30_encoding.md R64) are the checks of `WellFormed`. -/
inductive Instr where
  /-- CRCCLR (40_crc.md R80). -/
  | crcclr
  /-- CRCB b (40_crc.md R81). -/
  | crcb (b : Octet)
  /-- CRCENC (40_crc.md R83). -/
  | crcenc
  /-- CKLD k, c (40_crc.md R84). -/
  | ckld (k : Nat) (c : Octet)
  /-- CRCCHK (40_crc.md R85). -/
  | crcchk
  /-- NFSET n (41_packer.md R100): every octet decodes, a count above 8 is an error at execution. -/
  | nfset (n : Octet)
  /-- MSKLD r, m (41_packer.md R101). -/
  | mskld (r : MaskSel) (m : Octet)
  /-- BSET r, i, b (41_packer.md R102). -/
  | bset (r : MaskSel) (i : Nat) (b : Bool)
  /-- PACKR (41_packer.md R104). -/
  | packr
  /-- TXTLD i, c (41_packer.md R105). -/
  | txtld (i : Nat) (c : Octet)
  /-- UNPACKR (41_packer.md R106). -/
  | unpackr
  /-- ERRCLR (42_status.md R130). -/
  | errclr
  deriving DecidableEq, Repr

end Sys2Proof
end

