-- ==== Sys2Proof/Machine/Operands.lean ====
section
/-! DEFINITION. The registers a command's operands name: a mask by its selector, a bit of a mask by
its position, a checksum character or a text octet by its index. -/

namespace Sys2Proof.Machine

/-- `bool_at(mask, i) = mask[7 - i]` for a position 0 to 7 (10_state.md R25). -/
def boolAt (mask : Octet) (i : Nat) : Bool := decide (i < 8) && mask.getLsbD (7 - i)

/-- `mask[7 - i] <- b` for a position 0 to 7 (41_packer.md R102); no other bit changes. -/
def setBoolAt (mask : Octet) (i : Nat) (b : Bool) : Octet :=
  if i < 8 then
    if b then mask ||| (1#8 <<< (7 - i)) else mask &&& ~~~(1#8 <<< (7 - i))
  else mask

/-- The mask register a selector names (41_packer.md R101). -/
def State.mask (s : State) : MaskSel → Octet
  | .rq => s.rq
  | .cp => s.cp

/-- Writes the mask register a selector names (41_packer.md R101). -/
def State.setMask (s : State) (r : MaskSel) (m : Octet) : State :=
  match r with
  | .rq => { s with rq := m }
  | .cp => { s with cp := m }

/-- `RQ <- rq`, `CP <- cp` (41_packer.md R106). -/
def State.setMasks (s : State) (rq cp : Octet) : State := { s with rq := rq, cp := cp }

/-- `CRC <- c` (10_state.md R23). -/
def State.setCrc (s : State) (c : Crc16) : State := { s with crc := c }

/-- `NF <- n` (10_state.md R26). -/
def State.setNf (s : State) (n : BitVec 4) : State := { s with nf := n }

/-- All three checksum characters written (40_crc.md R83). -/
def State.setCks (s : State) (ck : Vector Octet 3) : State := { s with ck := ck }

/-- All 17 text octets written (41_packer.md R104). -/
def State.setTxts (s : State) (txt : Vector Octet 17) : State := { s with txt := txt }

/-- `CK[k] <- c` (40_crc.md R84). -/
def State.setCk (s : State) (k : Nat) (c : Octet) : State := { s with ck := s.ck.setIfInBounds k c }

/-- `TXT[i] <- c` (41_packer.md R105). -/
def State.setTxt (s : State) (i : Nat) (c : Octet) : State := { s with txt := s.txt.setIfInBounds i c }

/-- Octet `i` of an R-field text, for `i` from 0 to 16 (10_state.md R27). -/
def txtAt (txt : Vector Octet 17) (i : Nat) : Octet := txt[i]?.getD 0#8

end Sys2Proof.Machine
end

