-- ==== Sys2Proof/Machine/Ops.lean ====
section
/-! DEFINITION. The shared operations: recording an error, the block's only "entry"
(60_exceptions.md R142, R146), clearing it, its only "return" (60_exceptions.md R147), the datum a
read-port address gives (20_memory.md R41), and reset (70_reset_and_hazards.md R170). -/

namespace Sys2Proof.Machine

/-- The errors of the block (60_exceptions.md R140). -/
inductive ErrorKind where
  | illegalCommand
  | badCount
  | badDigit
  | badSeparator
  | invalidChecksum
  deriving DecidableEq, Repr

/-- The code of an error (60_exceptions.md R140). -/
def ErrorKind.code : ErrorKind → BitVec 4
  | .illegalCommand => 1#4
  | .badCount => 2#4
  | .badDigit => 3#4
  | .badSeparator => 4#4
  | .invalidChecksum => 5#4

/-- `record(code)`: the first error since the last reset or ERRCLR is kept (60_exceptions.md R142). -/
def record (e : ErrorKind) (s : State) : State := if s.err = 0#4 then s.setErr e.code else s

/-- `raise E`: the error is recorded and the command ends with no other effect; the block goes on
(00_scope.md R10; 60_exceptions.md R142, R143). -/
def raiseError (e : ErrorKind) (s : State) : Host.Outcome State Fault Refusal := .next (record e s)

/-- `ERR <- 0`, the only return from an error (60_exceptions.md R147). -/
def clearError (s : State) : State := s.setErr 0#4

/-- The datum of a read-port address (20_memory.md R41). -/
def readPort (s : State) (a : Address) : ReadDatum :=
  match a.toNat with
  | 0x00 => s.crc
  | 0x01 => s.ck[0].setWidth 16
  | 0x02 => s.ck[1].setWidth 16
  | 0x03 => s.ck[2].setWidth 16
  | 0x04 => s.rq.setWidth 16
  | 0x05 => s.cp.setWidth 16
  | 0x06 => s.nf.setWidth 16
  | 0x07 => s.status.setWidth 16
  | n => if 0x10 ≤ n ∧ n ≤ 0x20 then (txtAt s.txt (n - 0x10)).setWidth 16 else 0x0000#16

/-- The reset input asserted: every register takes its reset value (70_reset_and_hazards.md R170);
what the host has still to issue and what it has read are its own (notes/assumptions/5.md). -/
def applyReset (s : State) : State :=
  { State.reset with pending := s.pending, readData := s.readData }

end Sys2Proof.Machine
end

