-- ==== Sys2Proof/Machine/Params.lean ====
section
/-! DEFINITION. The numeric literals the source fixes (00_scope.md R6), by name, as
93_implementation_defined.md U4 allows, and the character codes of 00_scope.md R10. -/

namespace Sys2Proof.Machine

/-- `CRC_POLY`, the feedback constant (00_scope.md R6). -/
def crcPoly : Crc16 := 0xA001#16

/-- `CRC_INIT`, the initial register value (00_scope.md R6). -/
def crcInit : Crc16 := 0x0000#16

/-- `CK_OFFSET`, OR'd into each checksum group (00_scope.md R6). -/
def ckOffset : Octet := 0x40#8

/-- `SLOTS`, the slots of a digit string (00_scope.md R6). -/
def slots : Nat := 8

/-- `'0'` (00_scope.md R10). -/
def charZero : Octet := 0x30#8

/-- `'1'` (00_scope.md R10). -/
def charOne : Octet := 0x31#8

/-- `'&'`, the R-field separator (00_scope.md R6, R10). -/
def charAmp : Octet := 0x26#8

end Sys2Proof.Machine
end

