-- ==== Sys2Proof/Machine/Crc.lean ====
section
/-! DEFINITION. The CRC family: CRCCLR, CRCB, CRCENC, CKLD, CRCCHK (40_crc.md R80 to R88). -/

namespace Sys2Proof.Machine

/-- One iteration of `crc_byte`: shift right, feeding back when bit 0 was 1 (40_crc.md R81). -/
def crcShift (c : Crc16) : Crc16 :=
  if c.getLsbD 0 then (c >>> 1) ^^^ crcPoly else c >>> 1

/-- `repeat n times` of the iteration (40_crc.md R81). -/
def crcShifts : Nat → Crc16 → Crc16
  | 0, c => c
  | n + 1, c => crcShifts n (crcShift c)

/-- `crc_byte(c, b)` (40_crc.md R81). -/
def crcByte (c : Crc16) (b : Octet) : Crc16 := crcShifts 8 (c ^^^ b.setWidth 16)

/-- One step of the bit-serial form: absorbs one input bit (40_crc.md R82). -/
def crcSerialBit (c : Crc16) (bit : Bool) : Crc16 :=
  if xor (c.getLsbD 0) bit then (c >>> 1) ^^^ crcPoly else c >>> 1

/-- `crc_byte_serial(c, b)`: bit 0 of `b` first (40_crc.md R82). -/
def crcByteSerial (c : Crc16) (b : Octet) : Crc16 :=
  (List.range 8).foldl (fun acc i => crcSerialBit acc (b.getLsbD i)) c

/-- The left fold of `crc_byte` over an octet string from a given register value. -/
def crcFrom (c : Crc16) (s : List Octet) : Crc16 := s.foldl crcByte c

/-- `crc_of(s)` (40_crc.md R86). -/
def crcOf (s : List Octet) : Crc16 := crcFrom crcInit s

/-- `enc(c)`: the three checksum characters of a CRC, bits 15:12 first (40_crc.md R87; 20_memory.md R44). -/
def enc (c : Crc16) : Vector Octet 3 :=
  #v[ckOffset ||| (c.extractLsb' 12 4).setWidth 8,
     ckOffset ||| (c.extractLsb' 6 6).setWidth 8,
     ckOffset ||| (c.extractLsb' 0 6).setWidth 8]

/-- The inverse of `enc` on its image (40_crc.md R87). -/
def encInverse (e : Vector Octet 3) : Crc16 :=
  ((e[0] &&& 0x0F#8).setWidth 16 <<< 12) ||| ((e[1] &&& 0x3F#8).setWidth 16 <<< 6) |||
    (e[2] &&& 0x3F#8).setWidth 16

/-- `checksum(s)` of the source (40_crc.md R88). -/
def checksum (s : List Octet) : Vector Octet 3 := enc (crcOf s)

/-- The comparison of CRCCHK: all 8 bits of each of the three characters (40_crc.md R85). -/
def checksumMatches (s : State) : Bool :=
  decide (s.ck[0] = (enc s.crc)[0]) && decide (s.ck[1] = (enc s.crc)[1]) && decide (s.ck[2] = (enc s.crc)[2])

/-- CRCCLR (40_crc.md R80). -/
def execCrcclr (s : State) : Host.Outcome State Fault Refusal :=
  .next ((s.setCrc crcInit).setM false)

/-- CRCB b (40_crc.md R81). -/
def execCrcb (b : Octet) (s : State) : Host.Outcome State Fault Refusal :=
  .next ((s.setCrc (crcByte s.crc b)).setM false)

/-- CRCENC (40_crc.md R83). -/
def execCrcenc (s : State) : Host.Outcome State Fault Refusal :=
  .next (s.setCks (enc s.crc))

/-- CKLD k, c; a `k` above 2 is ILLEGAL_COMMAND (40_crc.md R84). -/
def execCkld (k : Nat) (c : Octet) (s : State) : Host.Outcome State Fault Refusal :=
  if k ≤ 2 then .next ((s.setCk k c).setM false) else raiseError .illegalCommand s

/-- CRCCHK: unlike other errors, a mismatch also writes M (40_crc.md R85; 60_exceptions.md R142). -/
def execCrcchk (s : State) : Host.Outcome State Fault Refusal :=
  if checksumMatches s then .next (s.setM true) else raiseError .invalidChecksum (s.setM false)

end Sys2Proof.Machine
end

