-- ==== Sys2Proof/Machine/Packer.lean ====
section
/-! DEFINITION. The bit-packer family: NFSET, MSKLD, BSET, PACKR, TXTLD, UNPACKR (41_packer.md R100 to R110). -/

namespace Sys2Proof.Machine

/-- `digit(mask, n, i)` (41_packer.md R104). -/
def digit (mask : Octet) (n i : Nat) : Octet :=
  if decide (i < n) && boolAt mask i then charOne else charZero

/-- `digits(mask, n)`, first position first (41_packer.md R107). -/
def digits (mask : Octet) (n : Nat) : List Octet := (List.range slots).map (digit mask n)

/-- The octet PACKR writes to `TXT[j]` (41_packer.md R104). -/
def packAt (rq cp : Octet) (n j : Nat) : Octet :=
  if j < 8 then digit rq n j else if j = 8 then charAmp else digit cp n (j - 9)

/-- The R-field text of two masks (41_packer.md R104, R107). -/
def packText (rq cp : Octet) (n : Nat) : Vector Octet 17 :=
  ⟨((List.range 17).map (packAt rq cp n)).toArray, by simp⟩

/-- `topmask(n) = (0xFF << (8 - n)) AND 0xFF` (41_packer.md R107). -/
def topmask (n : Nat) : Octet := 0xFF#8 <<< (8 - n)

/-- An octet that is read as a boolean: `'0'` or `'1'` (41_packer.md R106). -/
def isDigit (c : Octet) : Bool := decide (c = charZero) || decide (c = charOne)

/-- The octets UNPACKR examines after the separator, in order (41_packer.md R106). -/
def examined (n : Nat) : List Nat := List.range n ++ (List.range n).map (9 + ·)

/-- The lowest offending octet, the argument of `BAD_DIGIT` (41_packer.md R106; 60_exceptions.md R145). -/
def firstBadDigit (txt : Vector Octet 17) (n : Nat) : Option Nat :=
  (examined n).find? fun j => !isDigit (txtAt txt j)

/-- The mask of the half of the text that starts at `base` (41_packer.md R106). -/
def unpackHalf (txt : Vector Octet 17) (base n : Nat) : Octet :=
  (List.range n).foldl (fun mask i => setBoolAt mask i (decide (txtAt txt (base + i) = charOne))) 0x00#8

/-- NFSET n (41_packer.md R100). -/
def execNfset (n : Octet) (s : State) : Host.Outcome State Fault Refusal :=
  if 8 < n.toNat then raiseError .badCount s else .next (s.setNf (n.extractLsb' 0 4))

/-- MSKLD r, m (41_packer.md R101). -/
def execMskld (r : MaskSel) (m : Octet) (s : State) : Host.Outcome State Fault Refusal :=
  .next (s.setMask r m)

/-- BSET r, i, b; a position above 7 is ILLEGAL_COMMAND, one at or above `NF` is allowed (41_packer.md R102). -/
def execBset (r : MaskSel) (i : Nat) (b : Bool) (s : State) : Host.Outcome State Fault Refusal :=
  if i ≤ 7 then .next (s.setMask r (setBoolAt (s.mask r) i b)) else raiseError .illegalCommand s

/-- PACKR (41_packer.md R104). -/
def execPackr (s : State) : Host.Outcome State Fault Refusal :=
  .next (s.setTxts (packText s.rq s.cp s.nf.toNat))

/-- TXTLD i, c; an `i` above 16 is ILLEGAL_COMMAND (41_packer.md R105). -/
def execTxtld (i : Nat) (c : Octet) (s : State) : Host.Outcome State Fault Refusal :=
  if i ≤ 16 then .next (s.setTxt i c) else raiseError .illegalCommand s

/-- UNPACKR: separator first, then the digits; on an error no mask is written (41_packer.md R106). -/
def execUnpackr (s : State) : Host.Outcome State Fault Refusal :=
  if txtAt s.txt 8 ≠ charAmp then raiseError .badSeparator s
  else if (firstBadDigit s.txt s.nf.toNat).isSome then raiseError .badDigit s
  else .next (s.setMasks (unpackHalf s.txt 0 s.nf.toNat) (unpackHalf s.txt 9 s.nf.toNat))

end Sys2Proof.Machine
end

