-- ==== Sys2Proof/Machine/Status.lean ====
section
/-! DEFINITION. The status family (42_status.md): ERRCLR and the READ transaction. -/

namespace Sys2Proof.Machine

/-- ERRCLR (42_status.md R130). -/
def execErrclr (s : State) : Host.Outcome State Fault Refusal := .next (clearError s)

/-- READ a: the host gets the datum of the address, and no register changes (42_status.md R132;
20_memory.md R43). -/
def performRead (a : Address) (s : State) : State :=
  { s with readData := s.readData ++ [readPort s a] }

end Sys2Proof.Machine
end

