-- ==== Sys2Proof/Machine/Dispatch.lean ====
section
/-! DEFINITION. One arm per command. -/

namespace Sys2Proof.Machine

def exec (i : Instr) (s : State) : Host.Outcome State Fault Refusal :=
  match i with
  | .crcclr => Sys2Proof.Machine.execCrcclr s
  | .crcb b => Sys2Proof.Machine.execCrcb b s
  | .crcenc => Sys2Proof.Machine.execCrcenc s
  | .ckld k c => Sys2Proof.Machine.execCkld k c s
  | .crcchk => Sys2Proof.Machine.execCrcchk s
  | .nfset n => Sys2Proof.Machine.execNfset n s
  | .mskld r m => Sys2Proof.Machine.execMskld r m s
  | .bset r p b => Sys2Proof.Machine.execBset r p b s
  | .packr => Sys2Proof.Machine.execPackr s
  | .txtld p c => Sys2Proof.Machine.execTxtld p c s
  | .unpackr => Sys2Proof.Machine.execUnpackr s
  | .errclr => Sys2Proof.Machine.execErrclr s

end Sys2Proof.Machine
end

