-- ==== Sys2Proof/WellFormed.lean ====
section
/-! DEFINITION. The operand ranges of 30_encoding.md R64. CRCB, NFSET and MSKLD take any octet;
the selector of MSKLD and BSET and the bit of BSET have no value outside their range. -/

namespace Sys2Proof

/-- The command's index is in the range 30_encoding.md R64 gives it. -/
def Instr.wellFormed : Instr → Bool
  | .crcclr => true
  | .crcb _ => true
  | .crcenc => true
  | .ckld k _ => decide (k ≤ 2)
  | .crcchk => true
  | .nfset _ => true
  | .mskld _ _ => true
  | .bset _ i _ => decide (i ≤ 7)
  | .packr => true
  | .txtld i _ => decide (i ≤ 16)
  | .unpackr => true
  | .errclr => true

/-- `Instr.wellFormed` as a proposition. -/
abbrev WellFormed (i : Instr) : Prop := i.wellFormed = true

end Sys2Proof
end

