-- ==== Sys2Proof/Decode.lean ====
section
/-! DEFINITION. The decoder of 30_encoding.md R63, total on every 32-bit word, and after it the
encoder of 30_encoding.md R60 and R62. -/

namespace Sys2Proof

/-- Why a word is illegal: the five cases of 30_encoding.md R64. The block keeps no such reason
(60_exceptions.md R140); it is the decoder's own name for its answer. -/
inductive IllegalReason where
  /-- Bits 23:21 or 15:8 are not all 0. -/
  | reservedBits
  /-- `OP` is 0x00 or one of 0x0D to 0xFF. -/
  | unassignedOpcode
  /-- An operand field that the command does not use is not 0. -/
  | unusedOperand
  /-- `IDX` is above the command's range. -/
  | indexOutOfRange
  /-- BSET's `IMM[7:2]` is not 0. -/
  | bsetImmediate
  deriving DecidableEq, Repr

/-- The decoder's answer on a word. -/
inductive Decoded where
  | ok (i : Instr)
  | illegal (why : IllegalReason)
  deriving DecidableEq, Repr

/-- The command of a legal word. -/
def Decoded.toOption : Decoded → Option Instr
  | .ok i => some i
  | .illegal _ => none

/-- `OP = word[31:24]` (30_encoding.md R60). -/
def opField (w : CommandWord) : BitVec 8 := w.extractLsb' 24 8

/-- The reserved bits 23:21 (30_encoding.md R60). -/
def reservedHigh (w : CommandWord) : BitVec 3 := w.extractLsb' 21 3

/-- `IDX = word[20:16]` (30_encoding.md R61). -/
def idxField (w : CommandWord) : BitVec 5 := w.extractLsb' 16 5

/-- The reserved bits 15:8 (30_encoding.md R60). -/
def reservedLow (w : CommandWord) : BitVec 8 := w.extractLsb' 8 8

/-- `IMM = word[7:0]` (30_encoding.md R61). -/
def immField (w : CommandWord) : Octet := w.extractLsb' 0 8

/-- A command without operands: both operand fields must be 0 (30_encoding.md R63). -/
def decodeBare (i : Instr) (idx : Nat) (imm : Octet) : Decoded :=
  if idx = 0 ∧ imm = 0#8 then .ok i else .illegal .unusedOperand

/-- A command whose only operand is `IMM`: `IDX` must be 0 (30_encoding.md R63). -/
def decodeImmOnly (i : Instr) (idx : Nat) : Decoded :=
  if idx = 0 then .ok i else .illegal .unusedOperand

/-- The selector a one-bit value names: 0 is `RQ`, 1 is `CP` (30_encoding.md R62). -/
def selOfBit (b : Bool) : MaskSel := if b then .cp else .rq

/-- MSKLD's selector is the whole of `IDX`; above 1 is illegal (30_encoding.md R63). -/
def decodeMskld (idx : Nat) (imm : Octet) : Decoded :=
  if idx ≤ 1 then .ok (.mskld (selOfBit (decide (idx = 1))) imm) else .illegal .indexOutOfRange

/-- BSET splits `IMM` into `b = IMM[0]` and `r = IMM[1]`; `IMM[7:2]` must be 0 (30_encoding.md R61, R63). -/
def decodeBset (idx : Nat) (imm : Octet) : Decoded :=
  if 7 < idx then .illegal .indexOutOfRange
  else if imm.extractLsb' 2 6 = 0#6 then .ok (.bset (selOfBit (imm.getLsbD 1)) idx (imm.getLsbD 0))
  else .illegal .bsetImmediate

/-- A command with an index from 0 to `last` and an octet (CKLD, TXTLD; 30_encoding.md R63). -/
def decodeIndexed (i : Instr) (idx last : Nat) : Decoded :=
  if idx ≤ last then .ok i else .illegal .indexOutOfRange

/-- The `case OP of` of 30_encoding.md R63. -/
def decodeOp (op idx : Nat) (imm : Octet) : Decoded :=
  match op with
  | 0x01 => decodeBare .crcclr idx imm
  | 0x02 => decodeImmOnly (.crcb imm) idx
  | 0x03 => decodeBare .crcenc idx imm
  | 0x04 => decodeIndexed (.ckld idx imm) idx 2
  | 0x05 => decodeBare .crcchk idx imm
  | 0x06 => decodeImmOnly (.nfset imm) idx
  | 0x07 => decodeMskld idx imm
  | 0x08 => decodeBset idx imm
  | 0x09 => decodeBare .packr idx imm
  | 0x0A => decodeIndexed (.txtld idx imm) idx 16
  | 0x0B => decodeBare .unpackr idx imm
  | 0x0C => decodeBare .errclr idx imm
  | _ => .illegal .unassignedOpcode

/-- The decoder (30_encoding.md R63). -/
def decode (w : CommandWord) : Decoded :=
  if reservedHigh w = 0#3 ∧ reservedLow w = 0#8 then
    decodeOp (opField w).toNat (idxField w).toNat (immField w)
  else .illegal .reservedBits

/-- `word = OP << 24 | IDX << 16 | IMM` (30_encoding.md R60). -/
def commandWord (op idx : Nat) (imm : Octet) : CommandWord :=
  (BitVec.ofNat 8 op).setWidth 32 <<< 24 ||| (BitVec.ofNat 5 idx).setWidth 32 <<< 16 ||| imm.setWidth 32

/-- The number of a mask selector: `RQ` 0, `CP` 1 (30_encoding.md R68). -/
def MaskSel.number : MaskSel → Nat
  | .rq => 0
  | .cp => 1

/-- BSET's immediate, `r << 1 | b` (30_encoding.md R68). -/
def bsetImm (r : MaskSel) (b : Bool) : Octet :=
  BitVec.ofNat 8 r.number <<< 1 ||| BitVec.ofNat 8 b.toNat

/-- The word of a command (30_encoding.md R60, R62, R68). -/
def encode : Instr → CommandWord
  | .crcclr => commandWord 0x01 0 0
  | .crcb b => commandWord 0x02 0 b
  | .crcenc => commandWord 0x03 0 0
  | .ckld k c => commandWord 0x04 k c
  | .crcchk => commandWord 0x05 0 0
  | .nfset n => commandWord 0x06 0 n
  | .mskld r m => commandWord 0x07 r.number m
  | .bset r i b => commandWord 0x08 i (bsetImm r b)
  | .packr => commandWord 0x09 0 0
  | .txtld i c => commandWord 0x0A i c
  | .unpackr => commandWord 0x0B 0 0
  | .errclr => commandWord 0x0C 0 0

/-- The command word an `nbits`-bit numeral stands for: every command is one 32-bit word
(30_encoding.md R66), its bits above `nbits` being 0. -/
def tableWord (nbits w : Nat) : CommandWord := BitVec.ofNat 32 (w % 2 ^ nbits)

/-- What the decoder reads from the instruction whose bits are `w`. -/
def decodeTableWord (nbits w : Nat) : Option Instr := (decode (tableWord nbits w)).toOption

end Sys2Proof
end

