-- ==== Sys2Proof/Machine/Port.lean ====
section
/-! DEFINITION. The host's side of the ports: taking the oldest issued action and performing it. The
block fetches nothing (10_state.md R21); the host's commands take the place of a program. -/

namespace Sys2Proof.Machine

/-- A command word performed whole: an illegal word raises ILLEGAL_COMMAND and does nothing else
(30_encoding.md R64; 60_exceptions.md R141). `run` is the meaning of a decoded command. -/
def performCommand (run : Instr → State → Host.Outcome State Fault Refusal) (w : CommandWord)
    (s : State) : Host.Outcome State Fault Refusal :=
  match decode w with
  | .ok i => run i s
  | .illegal _ => raiseError .illegalCommand s

/-- One host action performed. Before the first reset only the reset input has a meaning
(70_reset_and_hazards.md R172; 93_implementation_defined.md U2). -/
def performAction (run : Instr → State → Host.Outcome State Fault Refusal) (act : HostAction)
    (s : State) : Host.Outcome State Fault Refusal :=
  match act with
  | .assertReset => .next (applyReset s)
  | .command w => if s.wasReset then performCommand run w s else .refused .beforeFirstReset
  | .read a => if s.wasReset then .next (performRead a s) else .refused .beforeFirstReset

/-- The oldest issued action is taken and performed in full (20_memory.md R47, R49). With nothing
issued the block holds its state (60_exceptions.md R155; notes/assumptions/2.md). -/
def performPending (run : Instr → State → Host.Outcome State Fault Refusal)
    (s : State) : Host.Outcome State Fault Refusal :=
  match s.pending with
  | [] => .next s
  | act :: rest => performAction run act { s with pending := rest }

/-- The host issues `w` as its very next action to a block that has been reset. -/
def issueNext (s : State) (w : CommandWord) : State :=
  { s with pending := .command w :: s.pending, wasReset := true }

end Sys2Proof.Machine
end

