-- ==== Sys2Proof/Machine/HostSide.lean ====
section
/-! DEFINITION. The host's rules that the spec states so that a model can connect the block to them:
the field order of a settings kind (00_scope.md R8; 41_packer.md R103), the pseudo-instructions
(30_encoding.md R69), and the command scripts of the host's obligations (70_reset_and_hazards.md R173
to R179). Nothing here is read by `step`. -/

namespace Sys2Proof.Machine

/-- `FIELD_ORDER(kind)` (00_scope.md R8): PTU is fixed, the others are parameters. -/
def fieldOrder (p : HostParams) : SettingsKind → List FieldName
  | .ptu => ["Pa", "Ta", "Tp", "Ua"]
  | .precipitation => p.precipitationOrder
  | .supervisor => p.supervisorOrder

/-- `NF(kind)` (00_scope.md R8). -/
def nfOf (p : HostParams) (kind : SettingsKind) : Nat := (fieldOrder p kind).length

/-- Every kind has at most 8 fields (00_scope.md R8). -/
def paramsLegal (p : HostParams) : Bool :=
  decide (p.precipitationOrder.length ≤ slots) && decide (p.supervisorOrder.length ≤ slots)

/-- `mask_of` of a field order and a boolean vector (41_packer.md R103). -/
def maskOf (order : List FieldName) (v : FieldName → Bool) : Octet :=
  order.zipIdx.foldl (fun mask fi => mask ||| if v fi.1 then 1#8 <<< (7 - fi.2) else 0x00#8) 0x00#8

/-- The host writes these commands to the command port, in this order. -/
def issue (script : List Instr) : List HostAction := script.map fun i => .command (encode i)

/-- A pseudo-instruction (30_encoding.md R69). -/
inductive Pseudo where
  | crcstr (s : List Octet)
  | cklds (s : List Octet)
  | txtlds (s : List Octet)
  | mskclr
  | crcgen (s : List Octet)
  | crcver (s cand : List Octet)
  deriving DecidableEq, Repr

/-- `CRCSTR "s"` (30_encoding.md R69). -/
def crcstrScript (s : List Octet) : List Instr := s.map .crcb

/-- `CKLDS "abc"` (30_encoding.md R69): exactly 3 characters, or the assembler refuses. -/
def ckldsScript (s : List Octet) : Option (List Instr) :=
  if s.length = 3 then some (s.zipIdx.map fun ci => .ckld ci.2 ci.1) else none

/-- `TXTLDS "s"` (30_encoding.md R69): at most 17 characters, or the assembler refuses. -/
def txtldsScript (s : List Octet) : Option (List Instr) :=
  if s.length ≤ 17 then some (s.zipIdx.map fun ci => .txtld ci.2 ci.1) else none

/-- The expansion of a pseudo-instruction; `none` where the assembler refuses it (30_encoding.md R69). -/
def expand : Pseudo → Option (List Instr)
  | .crcstr s => some (crcstrScript s)
  | .cklds s => ckldsScript s
  | .txtlds s => txtldsScript s
  | .mskclr => some [.mskld .rq 0x00#8, .mskld .cp 0x00#8]
  | .crcgen s => some (.crcclr :: crcstrScript s ++ [.crcenc])
  | .crcver s cand => (ckldsScript cand).map fun load => .crcclr :: crcstrScript s ++ load ++ [.crcchk]

/-- The octets the CRC covers: address, tag, then `,` and the payload where there is one
(70_reset_and_hazards.md R175; 90_conflicts.md C3). -/
def frameContent (address : Octet) (tag : List Octet) (payload : Option (List Octet)) : List Octet :=
  address :: tag ++ match payload with
    | some octets => 0x2C#8 :: octets
    | none => []

/-- An outgoing frame on the wire: content, checksum where the variant requires one, CR LF
(70_reset_and_hazards.md R175). -/
def wireFrame (p : HostParams) (content : List Octet) : List Octet :=
  content ++ (if p.checksumRequired then (checksum content).toList else []) ++ [0x0D#8, 0x0A#8]

/-- A received line without its terminator, CR LF or `!`; a line that has none is left as it is
(70_reset_and_hazards.md R175; 90_conflicts.md C4). -/
def removeTerminator (line : List Octet) : List Octet :=
  if [0x0D#8, 0x0A#8].isSuffixOf line then line.take (line.length - 2)
  else if [0x21#8].isSuffixOf line then line.take (line.length - 1)
  else line

/-- The commands that verify an incoming line whose terminator is removed: the last 3 characters are
the candidate, every earlier one is fed to the CRC (70_reset_and_hazards.md R175). -/
def incomingScript (line : List Octet) : Option (List Instr) :=
  if 3 ≤ line.length then expand (.crcver (line.take (line.length - 3)) (line.drop (line.length - 3)))
  else none

/-- The host interprets a frame only if the `STATUS` it read has M = 1 (70_reset_and_hazards.md R179). -/
def frameAccepted (statusDatum : ReadDatum) : Bool := statusDatum.getLsbD 0

/-- The host uses unpacked masks only if the `STATUS` it read shows no error (70_reset_and_hazards.md R179). -/
def masksUsable (statusDatum : ReadDatum) : Bool := decide (statusDatum.extractLsb' 4 4 = 0#4)

/-- The commands that pack one settings block of a kind (70_reset_and_hazards.md R173, R176). -/
def packScript (p : HostParams) (kind : SettingsKind) (requested composite : FieldName → Bool) : List Instr :=
  [.nfset (BitVec.ofNat 8 (nfOf p kind)), .mskld .rq (maskOf (fieldOrder p kind) requested),
    .mskld .cp (maskOf (fieldOrder p kind) composite), .packr]

/-- The settings token as it stands in a frame: `R=` and the text in TXT (41_packer.md R111). -/
def settingsToken (txt : Vector Octet 17) : List Octet := 0x52#8 :: 0x3D#8 :: txt.toList

/-- The R-field value of a settings token, its `R=` label stripped (70_reset_and_hazards.md R178). -/
def fieldValue : List Octet → Option (List Octet)
  | 0x52#8 :: 0x3D#8 :: value => some value
  | _ => none

/-- The commands that unpack a received R-field value; `none` where the host must refuse it itself:
any value but 17 characters with `&` at character 8 (70_reset_and_hazards.md R178). -/
def unpackScript (p : HostParams) (kind : SettingsKind) (value : List Octet) : Option (List Instr) :=
  if value.length = 17 ∧ value[8]? = some charAmp then
    (txtldsScript value).map fun load => .nfset (BitVec.ofNat 8 (nfOf p kind)) :: load ++ [.unpackr]
  else none

end Sys2Proof.Machine
end

