-- ==== Sys2Proof/Machine/Assembler.lean ====
section
/-! DEFINITION. The assembler syntax of 30_encoding.md R68 and R69: one line of text to the host
actions it stands for. What R68 leaves open (spaces, quote marks within quotes, characters outside
ASCII, a number too wide for its field) is notes/assumptions/11.md. Nothing here is read by `step`. -/

namespace Sys2Proof.Machine

/-- Where the operand scanner stands: outside quotes, inside a string, before the character of a
quoted character, before its closing quote. -/
inductive ScanMode where
  | plain
  | inString
  | quotedChar
  | closingQuote
  deriving DecidableEq, Repr

/-- The mode after a character. -/
def ScanMode.next (mode : ScanMode) (c : Char) : ScanMode :=
  match mode with
  | .plain => if c.toNat = 0x22 then .inString else if c.toNat = 0x27 then .quotedChar else .plain
  | .inString => if c.toNat = 0x22 then .plain else .inString
  | .quotedChar => .closingQuote
  | .closingQuote => .plain

/-- Puts a character before the first of the operands. -/
def pushChar (c : Char) : List (List Char) → List (List Char)
  | [] => [[c]]
  | first :: rest => (c :: first) :: rest

/-- Splits text at the commas outside quotes. A string ends at its next double quote. DESIGN CHOICE
(notes/assumptions/11.md): the spec says nothing of a double quote inside a string. -/
def splitOperands (mode : ScanMode) : List Char → List (List Char)
  | [] => [[]]
  | c :: rest =>
    if mode = .plain ∧ c = ',' then [] :: splitOperands .plain rest
    else pushChar c (splitOperands (mode.next c) rest)

/-- Text without the spaces around it. -/
def trimSpaces (text : List Char) : List Char :=
  ((text.dropWhile (· == ' ')).reverse.dropWhile (· == ' ')).reverse

/-- The value of a hexadecimal digit. -/
def hexDigit (c : Char) : Option Nat :=
  if '0' ≤ c ∧ c ≤ '9' then some (c.toNat - 0x30)
  else if 'A' ≤ c ∧ c ≤ 'F' then some (c.toNat - 0x41 + 10)
  else if 'a' ≤ c ∧ c ≤ 'f' then some (c.toNat - 0x61 + 10)
  else none

/-- The value of a numeral in a base, from the value of the digits before it. -/
def numeralFrom (base : Nat) : Nat → List Char → Option Nat
  | acc, [] => some acc
  | acc, c :: rest =>
    match hexDigit c with
    | some d => if d < base then numeralFrom base (acc * base + d) rest else none
    | none => none

/-- A decimal or hexadecimal number (30_encoding.md R68). -/
def number : List Char → Option Nat
  | '0' :: 'x' :: c :: rest => numeralFrom 16 0 (c :: rest)
  | c :: rest => numeralFrom 10 0 (c :: rest)
  | [] => none

/-- The octet of a character (00_scope.md R11). DESIGN CHOICE for a character outside ASCII, which
30_encoding.md R68 and 92_eei_decisions.md D7 leave open: a code of 0x80 to 0xFF is taken as that octet
and a higher one is refused (notes/assumptions/11.md). -/
def octetOfChar (c : Char) : Option Octet :=
  if c.toNat < 256 then some (BitVec.ofNat 8 c.toNat) else none

/-- An operand as written (30_encoding.md R68, R69). -/
inductive AsmOperand where
  | num (n : Nat)
  | sel (r : MaskSel)
  | str (s : List Octet)
  deriving DecidableEq, Repr

/-- One operand: a mask selector, a quoted character, a quoted string or a number (30_encoding.md R68).
DESIGN CHOICE (notes/assumptions/11.md): a string loses its first and last double quote, and a double
quote between them stands for its octet 0x22. -/
def operand (text : List Char) : Option AsmOperand :=
  match text with
  | ['R', 'Q'] => some (.sel .rq)
  | ['C', 'P'] => some (.sel .cp)
  | q :: rest =>
    if q.toNat = 0x27 then
      match rest with
      | [c, q'] => if q'.toNat = 0x27 then (octetOfChar c).map fun b => .num b.toNat else none
      | _ => none
    else if q.toNat = 0x22 then
      if rest.getLast?.map Char.toNat = some 0x22 then (rest.dropLast.mapM octetOfChar).map .str else none
    else (number (q :: rest)).map .num
  | [] => none

/-- A line of a program: a command, a pseudo-instruction or the host's read (30_encoding.md R68, R69). -/
inductive AsmLine where
  | instr (i : Instr)
  | pseudo (p : Pseudo)
  | read (a : Address)
  deriving DecidableEq, Repr

/-- A number as an octet, refused above 255. -/
def octetOperand (n : Nat) : Option Octet := if n < 256 then some (BitVec.ofNat 8 n) else none

/-- A number as an index, refused above what the 5 bits of `IDX` hold. -/
def indexOperand (n : Nat) : Option Nat := if n < 32 then some n else none

/-- A number as BSET's bit, refused above 1. -/
def bitOperand (n : Nat) : Option Bool := if n < 2 then some (decide (n = 1)) else none

/-- A mnemonic with its operands, in the order of 30_encoding.md R68. -/
def assembleLine (mnemonic : String) (ops : List AsmOperand) : Option AsmLine :=
  match mnemonic, ops with
  | "CRCCLR", [] => some (.instr .crcclr)
  | "CRCB", [.num b] => (octetOperand b).map fun b => .instr (.crcb b)
  | "CRCENC", [] => some (.instr .crcenc)
  | "CKLD", [.num k, .num c] =>
    (indexOperand k).bind fun k => (octetOperand c).map fun c => .instr (.ckld k c)
  | "CRCCHK", [] => some (.instr .crcchk)
  | "NFSET", [.num n] => (octetOperand n).map fun n => .instr (.nfset n)
  | "MSKLD", [.sel r, .num m] => (octetOperand m).map fun m => .instr (.mskld r m)
  | "BSET", [.sel r, .num i, .num b] =>
    (indexOperand i).bind fun i => (bitOperand b).map fun b => .instr (.bset r i b)
  | "PACKR", [] => some (.instr .packr)
  | "TXTLD", [.num i, .num c] =>
    (indexOperand i).bind fun i => (octetOperand c).map fun c => .instr (.txtld i c)
  | "UNPACKR", [] => some (.instr .unpackr)
  | "ERRCLR", [] => some (.instr .errclr)
  | "READ", [.num a] => (octetOperand a).map .read
  | "CRCSTR", [.str s] => some (.pseudo (.crcstr s))
  | "CKLDS", [.str s] => some (.pseudo (.cklds s))
  | "TXTLDS", [.str s] => some (.pseudo (.txtlds s))
  | "MSKCLR", [] => some (.pseudo .mskclr)
  | "CRCGEN", [.str s] => some (.pseudo (.crcgen s))
  | "CRCVER", [.str s, .str cand] => some (.pseudo (.crcver s cand))
  | _, _ => none

/-- A line's text: the mnemonic up to the first space, then the operands (30_encoding.md R68). -/
def parseLine (text : List Char) : Option AsmLine :=
  let line := trimSpaces text
  let mnemonic := String.ofList (line.takeWhile (· != ' '))
  let rest := trimSpaces (line.dropWhile (· != ' '))
  if rest = [] then assembleLine mnemonic []
  else (((splitOperands .plain rest).map trimSpaces).mapM operand).bind (assembleLine mnemonic)

/-- The host actions of a line; `none` where the assembler refuses the line. -/
def assemble (text : List Char) : Option (List HostAction) :=
  (parseLine text).bind fun
    | .instr i => some (issue [i])
    | .pseudo p => (expand p).map issue
    | .read a => some [.read a]

end Sys2Proof.Machine
end

