-- ==== Sys2Proof/Safety.lean ====
section
/-! DEFINITION. The terms claims are stated in: the invariant of the block, the frame of a step, and
runs of host scripts. -/

namespace Sys2Proof.Machine

/-- What holds of the registers in every state the block can reach after reset: NF is at most 8
(10_state.md R26), the reserved bits of STATUS read 0 (10_state.md R28), ERR is no reserved code
(60_exceptions.md R140), and M = 1 only while CK is the encoding of CRC (10_state.md R28). -/
structure State.Inv (s : State) : Prop where
  fieldCount : s.nf.toNat ≤ 8
  reserved : statusReserved s.status = 0#3
  errorCode : s.err.toNat ≤ 5
  freshMatch : s.m = true → s.ck = enc s.crc

/-- Every read-port address but those listed gives in `t` the datum it gives in `s`. Every register
has an address (20_memory.md R41). -/
def ReadsSameExcept (addresses : List Nat) (s t : State) : Prop :=
  ∀ a : Address, a.toNat ∉ addresses → readPort t a = readPort s a

/-- The host's side of the ports is the same: what it has still to issue, what it has read, and that
it has reset the block. -/
def SameHostSide (s t : State) : Prop :=
  t.pending = s.pending ∧ t.readData = s.readData ∧ t.wasReset = s.wasReset

/-- `t` is `s` but for what the listed addresses read: the frame of a command (00_scope.md R12, "Any
state a rule does not name is unchanged"). -/
def OnlyChanges (addresses : List Nat) (s t : State) : Prop :=
  ReadsSameExcept addresses s t ∧ SameHostSide s t

/-- STATUS differs from `s`'s at most in M: ERR and the reserved bits are the same. -/
def OnlyMOfStatus (s t : State) : Prop :=
  t.err = s.err ∧ statusReserved t.status = statusReserved s.status

/-- The effect of an error on STATUS: the code is recorded if ERR was 0, M and the reserved bits are
the same (60_exceptions.md R142). -/
def Recorded (code : BitVec 4) (s t : State) : Prop :=
  t.err = (if s.err = 0#4 then code else s.err) ∧ t.m = s.m ∧
    statusReserved t.status = statusReserved s.status

/-- `code` is recorded and nothing else happens (60_exceptions.md R142). -/
def OnlyRecords (code : BitVec 4) (s t : State) : Prop :=
  Recorded code s t ∧ OnlyChanges [0x07] s t

/-- The commands one after another, each on the state the one before it left (20_memory.md R49). -/
def execAll : List Instr → State → Host.Outcome State Fault Refusal
  | [], s => .next s
  | i :: rest, s =>
    match exec i s with
    | .next t => execAll rest t
    | .fault r => .fault r
    | .refused r => .refused r

/-- `t` is what the block is in after performing every action of `script`, taken from the head of its
pending actions. -/
def Performs (script : List HostAction) (s t : State) : Prop :=
  ∀ rest, Host.Core.run Sys2Proof.core script.length { s with pending := script ++ rest } =
    .next { t with pending := rest }

/-- The word is illegal: the cases of 30_encoding.md R64 as the rule lists them. -/
def IllegalWord (w : CommandWord) : Prop :=
  let op := (w.extractLsb 31 24).toNat
  let idx := (w.extractLsb 20 16).toNat
  let imm := w.extractLsb 7 0
  (w.extractLsb 23 21 ≠ 0 ∨ w.extractLsb 15 8 ≠ 0) ∨
  (op = 0x00 ∨ 0x0D ≤ op) ∨
  (op ∈ [0x01, 0x03, 0x05, 0x09, 0x0B, 0x0C] ∧ (idx ≠ 0 ∨ imm ≠ 0)) ∨
  (op ∈ [0x02, 0x06] ∧ idx ≠ 0) ∨
  (op = 0x04 ∧ 2 < idx) ∨ (op = 0x07 ∧ 1 < idx) ∨ (op = 0x08 ∧ 7 < idx) ∨ (op = 0x0A ∧ 16 < idx) ∨
  (op = 0x08 ∧ w.extractLsb 7 2 ≠ 0)

/-- The match and mask of a command's row in opcode_table.json, and the last `IDX` its note allows. -/
def tableRow : Instr → CommandWord × CommandWord × Nat
  | .crcclr => (0x01000000, 0xFFFFFFFF, 0)
  | .crcb _ => (0x02000000, 0xFFFFFF00, 0)
  | .crcenc => (0x03000000, 0xFFFFFFFF, 0)
  | .ckld _ _ => (0x04000000, 0xFFE0FF00, 2)
  | .crcchk => (0x05000000, 0xFFFFFFFF, 0)
  | .nfset _ => (0x06000000, 0xFFFFFF00, 0)
  | .mskld _ _ => (0x07000000, 0xFFE0FF00, 1)
  | .bset _ _ _ => (0x08000000, 0xFFE0FFFC, 7)
  | .packr => (0x09000000, 0xFFFFFFFF, 0)
  | .txtld _ _ => (0x0A000000, 0xFFE0FF00, 16)
  | .unpackr => (0x0B000000, 0xFFFFFFFF, 0)
  | .errclr => (0x0C000000, 0xFFFFFFFF, 0)

/-- The octet is neither `'0'` nor `'1'` (41_packer.md R106). -/
def BadDigit (c : Octet) : Prop := c ≠ 0x30#8 ∧ c ≠ 0x31#8

/-- UNPACKR raises no error: the separator stands and every examined octet is a digit (41_packer.md R106). -/
def UnpackLegal (s : State) : Prop :=
  txtAt s.txt 8 = 0x26#8 ∧
    ∀ i, i < s.nf.toNat → ¬ BadDigit (txtAt s.txt i) ∧ ¬ BadDigit (txtAt s.txt (9 + i))

/-- The read-port addresses of TXT (20_memory.md R41). -/
def txtAddresses : List Nat := List.range' 0x10 17

/-- The read-port address of a mask (20_memory.md R41). -/
def maskAddress : MaskSel → Nat
  | .rq => 0x04
  | .cp => 0x05

/-- The command belongs to the CRC family (40_crc.md). -/
def inCrcFamily : Instr → Bool
  | .crcclr => true
  | .crcb _ => true
  | .crcenc => true
  | .ckld _ _ => true
  | .crcchk => true
  | .nfset _ => false
  | .mskld _ _ => false
  | .bset _ _ _ => false
  | .packr => false
  | .txtld _ _ => false
  | .unpackr => false
  | .errclr => false

/-- The command belongs to the bit-packer family (41_packer.md). -/
def inPackerFamily : Instr → Bool
  | .crcclr => false
  | .crcb _ => false
  | .crcenc => false
  | .ckld _ _ => false
  | .crcchk => false
  | .nfset _ => true
  | .mskld _ _ => true
  | .bset _ _ _ => true
  | .packr => true
  | .txtld _ _ => true
  | .unpackr => true
  | .errclr => false

/-- The one error a command raises on a state, by the priority of 60_exceptions.md R145. -/
inductive Raises : Instr → State → BitVec 4 → Prop where
  /-- An operand out of the range of 30_encoding.md R64; nothing else is then checked. -/
  | illegalOperand (i : Instr) (s : State) : ¬ WellFormed i → Raises i s 1#4
  | badCount (n : Octet) (s : State) : 8 < n.toNat → Raises (.nfset n) s 2#4
  | badSeparator (s : State) : txtAt s.txt 8 ≠ 0x26#8 → Raises .unpackr s 4#4
  | badDigit (s : State) (i : Nat) : txtAt s.txt 8 = 0x26#8 → i < s.nf.toNat →
      BadDigit (txtAt s.txt i) ∨ BadDigit (txtAt s.txt (9 + i)) → Raises .unpackr s 3#4
  | invalidChecksum (s : State) : s.ck ≠ enc s.crc → Raises .crcchk s 5#4

end Sys2Proof.Machine
end

