-- ==== Sys2Proof/Certificates/Slice0/Obligations.lean ====
section
/-! DEFINITION. The statements for the provers. Addresses are those of 20_memory.md R41: CRC 0x00,
CK 0x01 to 0x03, RQ 0x04, CP 0x05, NF 0x06, STATUS 0x07, TXT 0x10 to 0x20. -/

open Sys2Proof Sys2Proof.Machine

/-! ### Encoding -/

/-- Decoding the word of a well-formed command gives the command back (30_encoding.md R60 to R63). -/
def Obligations.DecodeEncodeRoundTrip : Prop :=
  ∀ i : Instr, WellFormed i → decode (encode i) = .ok i

/-- A word that decodes is the word of the well-formed command it decodes to: no two words mean one
command (30_encoding.md R60 to R63). -/
def Obligations.EncodeDecodeRoundTrip : Prop :=
  ∀ (w : CommandWord) (i : Instr), decode w = .ok i → WellFormed i ∧ encode i = w

/-- 30_encoding.md R64: the decoder rejects exactly the words the rule lists, the all-zero word among
them, and a step that takes such a word records ILLEGAL_COMMAND and does nothing else
(60_exceptions.md R141). -/
def Obligations.IllegalWordsRecordIllegalCommand : Prop :=
  (∀ w : CommandWord, (∃ why, decode w = .illegal why) ↔ IllegalWord w) ∧
  IllegalWord 0x00000000#32 ∧
  ∀ (s : State) (w : CommandWord) (rest : List HostAction), s.wasReset = true →
    s.pending = .command w :: rest → IllegalWord w →
    ∃ t, step s = .next t ∧ OnlyRecords 1#4 { s with pending := rest } t

/-- 30_encoding.md R70: each assembly line of the table assembles to its word, and the word decodes
to the command. -/
def Obligations.SampleEncodings : Prop :=
  ∀ row ∈ ([("CRCCLR", .crcclr, 0x01000000#32), ("CRCB '0'", .crcb 0x30#8, 0x02000030#32),
      ("CRCENC", .crcenc, 0x03000000#32), ("CKLD 2, 0x7C", .ckld 2 0x7C#8, 0x0402007C#32),
      ("CRCCHK", .crcchk, 0x05000000#32), ("NFSET 4", .nfset 4#8, 0x06000004#32),
      ("MSKLD RQ, 0xC0", .mskld .rq 0xC0#8, 0x070000C0#32),
      ("MSKLD CP, 0x00", .mskld .cp 0x00#8, 0x07010000#32),
      ("BSET CP, 3, 1", .bset .cp 3 true, 0x08030003#32),
      ("BSET RQ, 0, 1", .bset .rq 0 true, 0x08000001#32), ("PACKR", .packr, 0x09000000#32),
      ("TXTLD 8, '&'", .txtld 8 0x26#8, 0x0A080026#32),
      ("TXTLD 16, '0'", .txtld 16 0x30#8, 0x0A100030#32), ("UNPACKR", .unpackr, 0x0B000000#32),
      ("ERRCLR", .errclr, 0x0C000000#32)] : List (String × Instr × CommandWord)),
    assemble row.1.toList = some [.command row.2.2] ∧ decode row.2.2 = .ok row.2.1

/-- opcode_table.json against the decoder: a word decodes to a command exactly when the row of that
command matches it and its `IDX` is in the row's range. -/
def Obligations.DecoderAgreesWithOpcodeTable : Prop :=
  (∀ (w : CommandWord) (i : Instr), decode w = .ok i →
    w &&& (tableRow i).2.1 = (tableRow i).1 ∧ (w.extractLsb 20 16).toNat ≤ (tableRow i).2.2) ∧
  ∀ (w : CommandWord) (i : Instr), w &&& (tableRow i).2.1 = (tableRow i).1 →
    (w.extractLsb 20 16).toNat ≤ (tableRow i).2.2 →
    ∃ j, decode w = .ok j ∧ tableRow j = tableRow i

/-! ### Steps, ports and reset -/

/-- A step that takes a command word which decodes to `i` is `exec i` on the state with the word
taken (20_memory.md R47). The second clause is the model's choice (notes/assumptions/1.md): the word
`withFetchWord` issues, to a block that it takes to have been reset, is taken by the very next step. -/
def Obligations.StepRunsTheDecodedCommand : Prop :=
  (∀ (s : State) (w : CommandWord) (rest : List HostAction) (i : Instr), s.wasReset = true →
    s.pending = .command w :: rest → decode w = .ok i → step s = exec i { s with pending := rest }) ∧
  ∀ (s : State) (w : Nat) (i : Instr), w < 2 ^ 32 → decodeTableWord 32 w = some i →
    step (s.withFetchWord 32 w) = exec i { s with wasReset := true }

/-- Every command answers a next state on every state, and so does every step of a block that has
been reset: no error stops it, the host's next action is taken, and with nothing issued nothing
changes (60_exceptions.md R143, R155; 20_memory.md R47; notes/assumptions/2.md). -/
def Obligations.EveryStepCompletes : Prop :=
  (∀ (i : Instr) (s : State), ∃ t, exec i s = .next t ∧ SameHostSide s t) ∧
  ∀ s : State, s.wasReset = true →
    ∃ t, step s = .next t ∧ t.wasReset = true ∧ t.pending = s.pending.tail ∧
      (s.pending = [] → t = s)

/-- 20_memory.md R41: the datum of every address. -/
def Obligations.ReadPortMap : Prop :=
  ∀ s : State,
    readPort s 0x00#8 = s.crc ∧ readPort s 0x01#8 = s.ck[0].setWidth 16 ∧
    readPort s 0x02#8 = s.ck[1].setWidth 16 ∧ readPort s 0x03#8 = s.ck[2].setWidth 16 ∧
    readPort s 0x04#8 = s.rq.setWidth 16 ∧ readPort s 0x05#8 = s.cp.setWidth 16 ∧
    readPort s 0x06#8 = s.nf.setWidth 16 ∧ readPort s 0x07#8 = s.status.setWidth 16 ∧
    (∀ (i : Nat) (h : i < 17), readPort s (BitVec.ofNat 8 (0x10 + i)) = s.txt[i].setWidth 16) ∧
    ∀ a : Address, (0x08 ≤ a.toNat ∧ a.toNat ≤ 0x0F) ∨ 0x21 ≤ a.toNat → readPort s a = 0x0000#16

/-- 20_memory.md R42, R43: a READ hands the host the datum of its address, changes no register and
records no error, a reserved address gives 0x0000, and two READs of one address give one datum. -/
def Obligations.ReadHasNoSideEffect : Prop :=
  (∀ (s : State) (a : Address) (rest : List HostAction), s.wasReset = true →
    s.pending = .read a :: rest →
    ∃ t, step s = .next t ∧ ReadsSameExcept [] s t ∧ t.pending = rest ∧ t.wasReset = true ∧
      t.readData = s.readData ++ [readPort s a] ∧
      ((0x08 ≤ a.toNat ∧ a.toNat ≤ 0x0F) ∨ 0x21 ≤ a.toNat →
        t.readData = s.readData ++ [0x0000#16])) ∧
  ∀ (s : State) (a : Address) (rest : List HostAction), s.wasReset = true →
    s.pending = .read a :: .read a :: rest →
    ∃ t, Host.Core.run core 2 s = .next t ∧ t.readData = s.readData ++ [readPort s a, readPort s a]

/-- 10_state.md R31: the register values reset leaves, whatever the block held before and whether or
not it was reset before; a CRCCHK straight after does not match. What the host has still to issue
and has read is kept (the model's own, notes/assumptions/5.md). -/
def Obligations.ResetLeavesEveryRegisterZero : Prop :=
  let isReset (t : State) : Prop :=
    t.crc = 0x0000#16 ∧ t.ck[0] = 0x00#8 ∧ t.ck[1] = 0x00#8 ∧ t.ck[2] = 0x00#8 ∧ t.rq = 0x00#8 ∧
    t.cp = 0x00#8 ∧ t.nf = 0#4 ∧ t.status = 0x00#8 ∧ t.m = false ∧ t.err = 0#4 ∧
    (∀ (i : Nat) (h : i < 17), t.txt[i] = 0x00#8) ∧
    ∃ u, exec .crcchk t = .next u ∧ u.m = false
  isReset State.reset ∧
  ∀ (s : State) (rest : List HostAction), s.pending = .assertReset :: rest →
    ∃ t, step s = .next t ∧ isReset t ∧ t.pending = rest ∧ t.readData = s.readData ∧
      t.wasReset = true

/-- Before the first reset a command or a READ has no meaning, whatever the registers hold; the power-on
state is such a state, and asserting reset there leaves the reset state (10_state.md R32;
70_reset_and_hazards.md R172; 93_implementation_defined.md U1, U2; notes/assumptions/3.md, 4.md). -/
def Obligations.NothingRunsBeforeTheFirstReset : Prop :=
  (∀ (s : State) (rest : List HostAction), s.wasReset = false →
    (∀ w, s.pending = .command w :: rest → step s = .refused .beforeFirstReset) ∧
    (∀ a, s.pending = .read a :: rest → step s = .refused .beforeFirstReset)) ∧
  State.powerOn.wasReset = false ∧
  ∀ rest : List HostAction,
    step { State.powerOn with pending := .assertReset :: rest } =
      .next { State.reset with pending := rest }

/-- A block that has been reset performs whatever the host issues, in full and in the order of issue
(20_memory.md R47, R49): a second script starts from the state the first leaves and takes back no datum
that was read; a command is performed on the state, and a READ returns the datum of the state, that all
issued before it has left, whatever is issued after it. That the actions issued stand in a list is the
model's choice (notes/assumptions/1.md). So is what the statement says across a reset, where a script
holds one (notes/assumptions/5.md): 70_reset_and_hazards.md R170 lets a command or READ issued before the
reset be dropped, and the model performs it in full and keeps the data read. -/
def Obligations.ActionsArePerformedInIssueOrder : Prop :=
  ∀ (s : State) (first : List HostAction), s.wasReset = true →
    ∃ t, Performs first s t ∧ t.wasReset = true ∧ s.readData <+: t.readData ∧
      (∀ second, ∃ u, Performs second t u ∧ Performs (first ++ second) s u ∧
        t.readData <+: u.readData) ∧
      (∀ (w : CommandWord) (i : Instr), decode w = .ok i →
        ∃ u, exec i t = .next u ∧ Performs (first ++ [.command w]) s u) ∧
      ∀ (a : Address) (second : List HostAction),
        ∃ u, Performs (first ++ .read a :: second) s u ∧ t.readData ++ [readPort t a] <+: u.readData

/-! ### CRC family -/

/-- 40_crc.md R80. -/
def Obligations.CrcclrClearsTheCrc : Prop :=
  encode .crcclr = 0x01000000#32 ∧
  ∀ s : State, ∃ t, exec .crcclr s = .next t ∧ t.crc = 0x0000#16 ∧ t.m = false ∧ OnlyMOfStatus s t ∧
    OnlyChanges [0x00, 0x07] s t ∧ exec .crcclr t = .next t

/-- 40_crc.md R81: the octet enters bits 7:0, then 8 iterations of the shift; every octet is accepted;
zero octets on a zero register are invisible. -/
def Obligations.CrcbAbsorbsOneOctet : Prop :=
  (∀ (b : Octet) (s : State), ∃ t, exec (.crcb b) s = .next t ∧
    t.crc = (fun c : Crc16 => if c.getLsbD 0 = true then (c >>> 1) ^^^ 0xA001#16 else c >>> 1)^[8]
      (s.crc ^^^ b.setWidth 16) ∧
    t.m = false ∧ OnlyMOfStatus s t ∧ OnlyChanges [0x00, 0x07] s t ∧
    encode (.crcb b) = 0x02000000#32 ||| b.setWidth 32) ∧
  ∀ n : Nat, crcOf (List.replicate n 0x00#8) = 0x0000#16

/-- 40_crc.md R82: the bit-serial form computes `crc_byte`, and 0xA001 is 0x8005 reversed. -/
def Obligations.BitSerialCrcEqualsBytewise : Prop :=
  (∀ (c : Crc16) (b : Octet), crcByteSerial c b = crcByte c b) ∧ crcPoly = (0x8005#16).reverse

/-- 40_crc.md R83: M is unchanged, and where M = 1 in a state the block can reach, CRCENC changes nothing. -/
def Obligations.CrcencWritesTheThreeCharacters : Prop :=
  encode .crcenc = 0x03000000#32 ∧
  ∀ s : State, ∃ t, exec .crcenc s = .next t ∧
    t.ck[0] = 0x40#8 ||| (s.crc.extractLsb 15 12).setWidth 8 ∧
    t.ck[1] = 0x40#8 ||| (s.crc.extractLsb 11 6).setWidth 8 ∧
    t.ck[2] = 0x40#8 ||| (s.crc.extractLsb 5 0).setWidth 8 ∧
    OnlyChanges [0x01, 0x02, 0x03] s t ∧ (s.Inv → s.m = true → t = s) ∧
    (s.crc = 0x0000#16 → t.ck = #v[0x40#8, 0x40#8, 0x40#8]) ∧
    (s.crc = 0xFFFF#16 → t.ck = #v[0x4F#8, 0x7F#8, 0x7F#8])

/-- 40_crc.md R84: the last character loaded at an index stays, and different indices load in any order. -/
def Obligations.CkldLoadsOneCharacter : Prop :=
  (∀ (k : Nat) (c : Octet) (s : State), k ≤ 2 → ∃ t, exec (.ckld k c) s = .next t ∧
    t.ck[k]? = some c ∧ t.m = false ∧ OnlyMOfStatus s t ∧ OnlyChanges [0x01 + k, 0x07] s t ∧
    encode (.ckld k c) = 0x04000000#32 ||| (BitVec.ofNat 32 k <<< 16) ||| c.setWidth 32) ∧
  (∀ (k : Nat) (c : Octet) (s : State), 2 < k → ∃ t, exec (.ckld k c) s = .next t ∧ OnlyRecords 1#4 s t) ∧
  (∀ (k : Nat) (c d : Octet) (s : State), k ≤ 2 →
    execAll [.ckld k c, .ckld k d] s = exec (.ckld k d) s) ∧
  ∀ (j k : Nat) (c d : Octet) (s : State), j ≤ 2 → k ≤ 2 → j ≠ k →
    execAll [.ckld j c, .ckld k d] s = execAll [.ckld k d, .ckld j c] s

/-- 40_crc.md R85: M := 1 on equality of all three octets; else M := 0 and code 5 recorded; CRC and CK
are unchanged in both cases. CRCENC then CRCCHK always matches. -/
def Obligations.CrcchkComparesTheChecksum : Prop :=
  encode .crcchk = 0x05000000#32 ∧
  (∀ s : State, ∃ t, exec .crcchk s = .next t ∧
    (s.ck = enc s.crc → t.m = true ∧ t.err = s.err) ∧
    (s.ck ≠ enc s.crc → t.m = false ∧ t.err = if s.err = 0#4 then 5#4 else s.err) ∧
    statusReserved t.status = statusReserved s.status ∧ OnlyChanges [0x07] s t) ∧
  (∀ s : State, ∃ t, execAll [.crcenc, .crcchk] s = .next t ∧ t.m = true) ∧
  ∃ t, exec .crcchk State.reset = .next t ∧ t.m = false

/-- CRCCLR followed by one CRCB for each octet leaves `crc_of` in CRC, whatever CRC held, and changes
only CRC and M; `crc_of` is the left fold of `crc_byte` from 0 (40_crc.md R86). -/
def Obligations.CrcOfIsTheFoldOfCrcb : Prop :=
  crcOf [] = 0x0000#16 ∧
  (∀ (octets : List Octet) (b : Octet), crcOf (octets ++ [b]) = crcByte (crcOf octets) b) ∧
  ∀ (octets : List Octet) (s : State), ∃ t, execAll (.crcclr :: octets.map .crcb) s = .next t ∧
    t.crc = crcOf octets ∧ t.m = false ∧ OnlyMOfStatus s t ∧ OnlyChanges [0x00, 0x07] s t

/-- 40_crc.md R87: the groups of `enc`, their ranges, and the inverse; the first group's bits 5:4 are 0. -/
def Obligations.EncodingOfTheChecksum : Prop :=
  (∀ c : Crc16,
    ((enc c)[0] = 0x40#8 ||| (c.extractLsb 15 12).setWidth 8 ∧
      (enc c)[1] = 0x40#8 ||| (c.extractLsb 11 6).setWidth 8 ∧
      (enc c)[2] = 0x40#8 ||| (c.extractLsb 5 0).setWidth 8) ∧
    ((enc c)[0] = 0x40#8 + (c.extractLsb 15 12).setWidth 8 ∧
      (enc c)[1] = 0x40#8 + (c.extractLsb 11 6).setWidth 8 ∧
      (enc c)[2] = 0x40#8 + (c.extractLsb 5 0).setWidth 8) ∧
    (0x40 ≤ (enc c)[0].toNat ∧ (enc c)[0].toNat ≤ 0x4F) ∧
    (0x40 ≤ (enc c)[1].toNat ∧ (enc c)[1].toNat ≤ 0x7F) ∧
    (0x40 ≤ (enc c)[2].toNat ∧ (enc c)[2].toNat ≤ 0x7F) ∧
    c = ((enc c)[0] &&& 0x0F#8).setWidth 16 <<< 12 ||| ((enc c)[1] &&& 0x3F#8).setWidth 16 <<< 6 |||
      ((enc c)[2] &&& 0x3F#8).setWidth 16) ∧
  (∀ c d : Crc16, enc c = enc d → c = d) ∧
  (enc 0xFFFF#16)[1] = 0x7F#8

/-- 40_crc.md R88: the source's `checksum` and `verify` are the two command sequences, issued at the
command port, from any state of a block that has been reset. -/
def Obligations.CommandSequencesComputeChecksumAndVerify : Prop :=
  ∀ (s : State) (octets : List Octet), s.wasReset = true →
    (∃ t, Performs (issue (.crcclr :: octets.map .crcb ++ [.crcenc])) s t ∧
      t.ck = enc (crcOf octets)) ∧
    ∀ a0 a1 a2 : Octet,
      ∃ t, Performs (issue (.crcclr :: octets.map .crcb ++
          [.ckld 0 a0, .ckld 1 a1, .ckld 2 a2, .crcchk])) s t ∧
        (t.m = true ↔ enc (crcOf octets) = #v[a0, a1, a2])

/-- Over strings of equal length the CRC is linear (40_crc.md R89). -/
def Obligations.CrcIsLinear : Prop :=
  ∀ s t : List Octet, s.length = t.length →
    crcOf (List.zipWith (· ^^^ ·) s t) = crcOf s ^^^ crcOf t

/-- Changing any one octet of a string changes its CRC and its checksum (95_test_vectors.md E2, E3,
there checked on two strings; 40_crc.md R81, R87). -/
def Obligations.SingleOctetChangeIsDetected : Prop :=
  ∀ (before after : List Octet) (x y : Octet), x ≠ y →
    crcOf (before ++ x :: after) ≠ crcOf (before ++ y :: after) ∧
    checksum (before ++ x :: after) ≠ checksum (before ++ y :: after)

/-- The host that verifies a received line by the script of 70_reset_and_hazards.md R175 and accepts it
only if the STATUS it then reads has M = 1 (R179) accepts exactly the lines whose last 3 characters
are the checksum of the characters before them (the host's script: notes/assumptions/17.md). -/
def Obligations.HostAcceptsExactlyCheckedFrames : Prop :=
  ∀ (s : State) (line : List Octet) (script : List Instr), s.wasReset = true →
    incomingScript line = some script →
    ∃ t d, Performs (issue script ++ [.read 0x07#8]) s t ∧ t.readData = s.readData ++ [d] ∧
      (frameAccepted d = true ↔
        line.drop (line.length - 3) = (checksum (line.take (line.length - 3))).toList)

/-! ### Bit-packer family -/

/-- 41_packer.md R100, with its corner cases: a count of 0 packs to all-zero strings and unpacks on the
separator alone, a count of 8 uses every slot of both halves. -/
def Obligations.NfsetBoundsTheFieldCount : Prop :=
  (∀ (n : Octet) (s : State), n.toNat ≤ 8 → ∃ t, exec (.nfset n) s = .next t ∧
    t.nf = n.extractLsb 3 0 ∧ t.nf.toNat = n.toNat ∧ OnlyChanges [0x06] s t ∧
    encode (.nfset n) = 0x06000000#32 ||| n.setWidth 32) ∧
  (∀ (n : Octet) (s : State), 8 < n.toNat → ∃ t, exec (.nfset n) s = .next t ∧ OnlyRecords 2#4 s t) ∧
  (∀ s : State, s.nf = 0#4 → ∃ t, exec .packr s = .next t ∧
    ∀ j, j < 17 → t.txt[j]? = some (if j = 8 then 0x26#8 else 0x30#8)) ∧
  (∀ s : State, s.nf = 0#4 → txtAt s.txt 8 = 0x26#8 → ∃ t, exec .unpackr s = .next t ∧ t.err = s.err) ∧
  ∀ s : State, s.nf = 8#4 → ∃ t, exec .packr s = .next t ∧
    ∀ i, i ≤ 7 → t.txt[i]? = some (if s.rq.getLsbD (7 - i) = true then 0x31#8 else 0x30#8) ∧
      t.txt[9 + i]? = some (if s.cp.getLsbD (7 - i) = true then 0x31#8 else 0x30#8)

/-- 41_packer.md R101: every bit is stored as written, those at positions NF to 7 too, which PACKR
ignores; a word with a selector above 1 is illegal. -/
def Obligations.MskldLoadsAMask : Prop :=
  (∀ (r : MaskSel) (m : Octet) (s : State), ∃ t, exec (.mskld r m) s = .next t ∧ t.mask r = m ∧
    OnlyChanges [maskAddress r] s t ∧
    encode (.mskld r m) = 0x07000000#32 ||| (BitVec.ofNat 32 r.number <<< 16) ||| m.setWidth 32) ∧
  (∀ (r : MaskSel) (m m' : Octet) (s : State),
    (∀ i, i ≤ 7 → i < s.nf.toNat → m.getLsbD (7 - i) = m'.getLsbD (7 - i)) →
    ∃ t t', execAll [.mskld r m, .packr] s = .next t ∧ execAll [.mskld r m', .packr] s = .next t' ∧
      t.txt = t'.txt) ∧
  ∀ w : CommandWord, w.extractLsb 31 24 = 0x07#8 → 1 < (w.extractLsb 20 16).toNat →
    ∃ why, decode w = .illegal why

/-- 41_packer.md R102: one bit of one mask is written, at or above NF too, where PACKR writes '0' for it
and UNPACKR leaves it 0; a position above 7 is an illegal command, and so is a word with IMM[7:2] not 0. -/
def Obligations.BsetSetsOnePosition : Prop :=
  (∀ (r : MaskSel) (i : Nat) (b : Bool) (s : State), i ≤ 7 → ∃ t, exec (.bset r i b) s = .next t ∧
    (∀ j, j ≤ 7 → (t.mask r).getLsbD (7 - j) = if j = i then b else (s.mask r).getLsbD (7 - j)) ∧
    OnlyChanges [maskAddress r] s t ∧
    encode (.bset r i b) =
      0x08000000#32 ||| (BitVec.ofNat 32 i <<< 16) ||| (BitVec.ofNat 32 r.number <<< 1) |||
        BitVec.ofNat 32 b.toNat) ∧
  (∀ (r : MaskSel) (i : Nat) (b : Bool) (s : State), s.nf.toNat ≤ i → i ≤ 7 →
    (∃ t, execAll [.bset r i b, .packr] s = .next t ∧ t.err = s.err ∧ t.txt[i]? = some 0x30#8 ∧
      t.txt[9 + i]? = some 0x30#8) ∧
    (UnpackLegal s → ∃ t, execAll [.bset r i b, .unpackr] s = .next t ∧ t.err = s.err ∧
      (t.mask r).getLsbD (7 - i) = false)) ∧
  (∀ (r : MaskSel) (i : Nat) (b : Bool) (s : State), 7 < i →
    ∃ t, exec (.bset r i b) s = .next t ∧ OnlyRecords 1#4 s t) ∧
  ∀ w : CommandWord, w.extractLsb 31 24 = 0x08#8 → w.extractLsb 7 2 ≠ 0 → ∃ why, decode w = .illegal why

/-- 41_packer.md R104: all 17 octets are written, positions NF to 7 as '0'; the masks are not changed. -/
def Obligations.PackrRendersBothMasks : Prop :=
  encode .packr = 0x09000000#32 ∧
  ∀ s : State, ∃ t, exec .packr s = .next t ∧
    (∀ i, i ≤ 7 → t.txt[i]? =
      some (if i < s.nf.toNat ∧ s.rq.getLsbD (7 - i) = true then 0x31#8 else 0x30#8)) ∧
    t.txt[8]? = some 0x26#8 ∧
    (∀ i, i ≤ 7 → t.txt[9 + i]? =
      some (if i < s.nf.toNat ∧ s.cp.getLsbD (7 - i) = true then 0x31#8 else 0x30#8)) ∧
    OnlyChanges txtAddresses s t

/-- 41_packer.md R105. -/
def Obligations.TxtldLoadsOneOctet : Prop :=
  (∀ (i : Nat) (c : Octet) (s : State), i ≤ 16 → ∃ t, exec (.txtld i c) s = .next t ∧
    t.txt[i]? = some c ∧ OnlyChanges [0x10 + i] s t ∧
    encode (.txtld i c) = 0x0A000000#32 ||| (BitVec.ofNat 32 i <<< 16) ||| c.setWidth 32) ∧
  ∀ (i : Nat) (c : Octet) (s : State), 16 < i →
    ∃ t, exec (.txtld i c) s = .next t ∧ OnlyRecords 1#4 s t

/-- 41_packer.md R106: the two errors, in which no mask is written, and the masks otherwise; octets at
positions NF to 7 are not examined and TXT is not changed. -/
def Obligations.UnpackrDecodesTheText : Prop :=
  encode .unpackr = 0x0B000000#32 ∧
  ∀ s : State,
    (txtAt s.txt 8 ≠ 0x26#8 → ∃ t, exec .unpackr s = .next t ∧ OnlyRecords 4#4 s t) ∧
    (txtAt s.txt 8 = 0x26#8 →
      (∃ i, i < s.nf.toNat ∧ (BadDigit (txtAt s.txt i) ∨ BadDigit (txtAt s.txt (9 + i)))) →
      ∃ t, exec .unpackr s = .next t ∧ OnlyRecords 3#4 s t) ∧
    (UnpackLegal s → ∃ t, exec .unpackr s = .next t ∧
      (∀ i, i ≤ 7 → t.rq.getLsbD (7 - i) = (decide (i < s.nf.toNat) && decide (txtAt s.txt i = 0x31#8))) ∧
      (∀ i, i ≤ 7 →
        t.cp.getLsbD (7 - i) = (decide (i < s.nf.toNat) && decide (txtAt s.txt (9 + i) = 0x31#8))) ∧
      OnlyChanges [0x04, 0x05] s t)

/-- The octet BAD_DIGIT is raised at is the lowest offending one of `TXT[0..NF-1]`, then of
`TXT[9..8+NF]` (41_packer.md R106; 60_exceptions.md R145). -/
def Obligations.BadDigitIsTheLowestOffender : Prop :=
  ∀ (s : State) (j : Nat), firstBadDigit s.txt s.nf.toNat = some j ↔
    (j < s.nf.toNat ∧ BadDigit (txtAt s.txt j) ∧ ∀ k, k < j → ¬ BadDigit (txtAt s.txt k)) ∨
    ∃ i, j = 9 + i ∧ i < s.nf.toNat ∧ BadDigit (txtAt s.txt j) ∧
      (∀ k, k < s.nf.toNat → ¬ BadDigit (txtAt s.txt k)) ∧
      ∀ k, k < i → ¬ BadDigit (txtAt s.txt (9 + k))

/-- 41_packer.md R107: `digits` and `pack`, and the numeral that a digit string spells. -/
def Obligations.DigitStringSpellsTheMask : Prop :=
  (∀ (mask : Octet) (n : Nat), n ≤ 8 →
    digits mask n = (List.range 8).map (fun i =>
      if i < n ∧ mask.getLsbD (7 - i) = true then 0x31#8 else 0x30#8) ∧
    (digits mask n).foldl (fun acc c => 2 * acc + if c = 0x31#8 then 1 else 0) 0 =
      (mask &&& topmask n).toNat ∧
    topmask n = BitVec.ofNat 8 ((0xFF <<< (8 - n)) &&& 0xFF)) ∧
  (∀ (rq cp : Octet) (n : Nat), n ≤ 8 →
    (packText rq cp n).toList = digits rq n ++ 0x26#8 :: digits cp n) ∧
  topmask 0 = 0x00#8 ∧ topmask 4 = 0xF0#8 ∧ topmask 8 = 0xFF#8

/-- 41_packer.md R108: PACKR then UNPACKR raises no error and leaves the masks under `topmask(NF)`, and
returns exactly the masks that the host built with `mask_of` for a settings kind. -/
def Obligations.PackUnpackRoundTrip : Prop :=
  ∀ s : State, s.wasReset = true → s.nf.toNat ≤ 8 →
    ∃ t, Performs (issue [.packr, .unpackr]) s t ∧ t.err = s.err ∧
      t.rq = s.rq &&& topmask s.nf.toNat ∧ t.cp = s.cp &&& topmask s.nf.toNat ∧
      ∀ (p : HostParams) (kind : SettingsKind) (requested composite : FieldName → Bool),
        paramsLegal p = true → s.nf.toNat = nfOf p kind →
        s.rq = maskOf (fieldOrder p kind) requested → s.cp = maskOf (fieldOrder p kind) composite →
        t.rq = s.rq ∧ t.cp = s.cp

/-- `mask_of` puts the boolean of the field at position i in mask bit 7-i, and 0 in the bits of positions
no field has (41_packer.md R103; 10_state.md R25). -/
def Obligations.MaskOfPlacesEachField : Prop :=
  ∀ (order : List FieldName) (v : FieldName → Bool), order.length ≤ 8 → ∀ i, i ≤ 7 →
    (maskOf order v).getLsbD (7 - i) = ((order[i]?).map v).getD false

/-- 41_packer.md R109: swapping two fields of an order swaps their two bits of the mask, so the packed
digit string changes exactly when their booleans differ. -/
def Obligations.FieldOrderCarriesMeaning : Prop :=
  ∀ (order : List FieldName) (v : FieldName → Bool) (p q : Nat) (hq : q < order.length) (hpq : p < q),
    order.length ≤ 8 →
    let swapped := (order.set p order[q]).set q (order[p]'(by omega))
    (∀ i, i ≤ 7 → (maskOf swapped v).getLsbD (7 - i) =
      (maskOf order v).getLsbD (7 - (if i = p then q else if i = q then p else i))) ∧
    (v (order[p]'(by omega)) ≠ v order[q] →
      digits (maskOf swapped v) order.length ≠ digits (maskOf order v) order.length) ∧
    (v (order[p]'(by omega)) = v order[q] → maskOf swapped v = maskOf order v)

/-- 41_packer.md R110: lane i of PACKR's output reads only its own mask bit and whether i < NF, and lane
i of UNPACKR's reads only its own octet and that comparison. -/
def Obligations.LanesAreIndependent : Prop :=
  ∀ (s s' : State) (i : Nat), i ≤ 7 → (i < s.nf.toNat ↔ i < s'.nf.toNat) →
    (∃ t t', exec .packr s = .next t ∧ exec .packr s' = .next t' ∧
      (s.rq.getLsbD (7 - i) = s'.rq.getLsbD (7 - i) → t.txt[i]? = t'.txt[i]?) ∧
      (s.cp.getLsbD (7 - i) = s'.cp.getLsbD (7 - i) → t.txt[9 + i]? = t'.txt[9 + i]?)) ∧
    (UnpackLegal s → UnpackLegal s' →
      ∃ t t', exec .unpackr s = .next t ∧ exec .unpackr s' = .next t' ∧
        (s.txt[i]? = s'.txt[i]? → t.rq.getLsbD (7 - i) = t'.rq.getLsbD (7 - i)) ∧
        (s.txt[9 + i]? = s'.txt[9 + i]? → t.cp.getLsbD (7 - i) = t'.cp.getLsbD (7 - i)))

/-- What one block packs another unpacks: for every settings kind and all boolean vectors, the text that
`packScript` leaves in one block is accepted by `unpackScript`, which run in any other block that
has been reset recovers both vectors position by position, and records no error (95_test_vectors.md
E1, E4; 41_packer.md R103, R104, R106; 70_reset_and_hazards.md R173, R176, R178; the host's scripts and
parameters: notes/assumptions/10.md, 17.md). -/
def Obligations.SettingsTravelBetweenBlocks : Prop :=
  ∀ (p : HostParams) (kind : SettingsKind) (requested composite : FieldName → Bool) (s r : State),
    paramsLegal p = true → s.wasReset = true → r.wasReset = true →
    ∃ t script u, Performs (issue (packScript p kind requested composite)) s t ∧
      unpackScript p kind t.txt.toList = some script ∧ Performs (issue script) r u ∧
      u.err = r.err ∧ u.rq = maskOf (fieldOrder p kind) requested ∧
      u.cp = maskOf (fieldOrder p kind) composite

/-! ### Status, errors and the whole machine -/

/-- 42_status.md R130: with ERR = 0 it has no effect; a malformed ERRCLR word is illegal. -/
def Obligations.ErrclrClearsTheError : Prop :=
  encode .errclr = 0x0C000000#32 ∧
  (∀ s : State, ∃ t, exec .errclr s = .next t ∧ t.err = 0#4 ∧ t.m = s.m ∧
    statusReserved t.status = statusReserved s.status ∧ OnlyChanges [0x07] s t ∧
    (s.err = 0#4 → t = s)) ∧
  ∀ (s : State) (w : CommandWord) (rest : List HostAction), s.wasReset = true →
    s.pending = .command w :: rest → w.extractLsb 31 24 = 0x0C#8 → w ≠ 0x0C000000#32 →
    ∃ t, step s = .next t ∧ t.err = if s.err = 0#4 then 1#4 else s.err

/-- 60_exceptions.md R142: a command that raises an error performs none of its own writes and records
the code only if ERR was 0; CRCCHK's M := 0 is the one exception. A command that raises none leaves
ERR as it is, but for ERRCLR; so ERR keeps the first error until then. -/
def Obligations.ErrorsAreRecordedOnceAndDoNothingElse : Prop :=
  (∀ (i : Instr) (s : State) (code : BitVec 4), Raises i s code →
    ∃ t, exec i s = .next t ∧ t.err = (if s.err = 0#4 then code else s.err) ∧
      statusReserved t.status = statusReserved s.status ∧ OnlyChanges [0x07] s t ∧
      t.m = if i = .crcchk then false else s.m) ∧
  (∀ (i : Instr) (s t : State), (∀ code, ¬ Raises i s code) → exec i s = .next t →
    t.err = if i = .errclr then 0#4 else s.err) ∧
  ∀ (i : Instr) (s t : State), exec i s = .next t → i ≠ .errclr → s.err ≠ 0#4 → t.err = s.err

/-- The "written by" column of 10_state.md R20: a register changes only under the commands the table
names, STATUS beside them under a command that raises an error, and the host's side of the ports under
none. -/
def Obligations.RegistersHaveOnlyTheirWriters : Prop :=
  ∀ (i : Instr) (s t : State), exec i s = .next t →
    (t.crc ≠ s.crc → i = .crcclr ∨ ∃ b, i = .crcb b) ∧
    (t.ck ≠ s.ck → i = .crcenc ∨ ∃ k c, i = .ckld k c) ∧
    (t.rq ≠ s.rq → (∃ m, i = .mskld .rq m) ∨ (∃ p b, i = .bset .rq p b) ∨ i = .unpackr) ∧
    (t.cp ≠ s.cp → (∃ m, i = .mskld .cp m) ∨ (∃ p b, i = .bset .cp p b) ∨ i = .unpackr) ∧
    (t.nf ≠ s.nf → ∃ n, i = .nfset n) ∧
    (t.txt ≠ s.txt → i = .packr ∨ ∃ p c, i = .txtld p c) ∧
    (t.status ≠ s.status → i = .crcclr ∨ (∃ b, i = .crcb b) ∨ (∃ k c, i = .ckld k c) ∨ i = .crcchk ∨
      i = .errclr ∨ ∃ code, Raises i s code) ∧
    statusReserved t.status = statusReserved s.status ∧ SameHostSide s t

/-- 10_state.md R29: what each command does to M, that no command but CRCCHK, CRCCLR, CRCB and CKLD
writes it, that none reads it (with M flipped beforehand, all else comes out the same), and its
reset value. -/
def Obligations.OnlyCrcUnitCommandsTouchM : Prop :=
  (∀ (i : Instr) (s t : State), WellFormed i → exec i s = .next t →
    (i = .crcchk → t.m = decide (s.ck = enc s.crc)) ∧
    ((i = .crcclr ∨ (∃ b, i = .crcb b) ∨ ∃ k c, i = .ckld k c) → t.m = false) ∧
    (i ≠ .crcchk → i ≠ .crcclr → (∀ b, i ≠ .crcb b) → (∀ k c, i ≠ .ckld k c) → t.m = s.m)) ∧
  (∀ (i : Instr) (s : State) (x : Bool), ∃ t u, exec i s = .next t ∧ exec i (s.setM x) = .next u ∧
    t.setM false = u.setM false) ∧
  State.reset.m = false

/-- The CRC unit and the bit-packer do not see each other: a CRC command's effect on CRC, CK and STATUS
is fixed by CRC, CK and STATUS, and a packer command's effect on RQ, CP, NF, TXT and ERR is fixed by
RQ, CP, NF, TXT and ERR (40_crc.md and 41_packer.md, opening paragraphs). -/
def Obligations.CrcUnitAndPackerAreSeparate : Prop :=
  (∀ (i : Instr) (s s' : State), inCrcFamily i = true → s.crc = s'.crc → s.ck = s'.ck →
    s.status = s'.status →
    ∃ t t', exec i s = .next t ∧ exec i s' = .next t' ∧ t.crc = t'.crc ∧ t.ck = t'.ck ∧
      t.status = t'.status ∧ (t.rq = s.rq ∧ t.cp = s.cp ∧ t.nf = s.nf ∧ t.txt = s.txt)) ∧
  ∀ (i : Instr) (s s' : State), inPackerFamily i = true → s.rq = s'.rq → s.cp = s'.cp →
    s.nf = s'.nf → s.txt = s'.txt → s.err = s'.err →
    ∃ t t', exec i s = .next t ∧ exec i s' = .next t' ∧ t.rq = t'.rq ∧ t.cp = t'.cp ∧
      t.nf = t'.nf ∧ t.txt = t'.txt ∧ t.err = t'.err ∧ (t.crc = s.crc ∧ t.ck = s.ck ∧ t.m = s.m)

/-- A command given with an index out of its range raises ILLEGAL_COMMAND and does nothing else
(30_encoding.md R64; 60_exceptions.md R141; notes/assumptions/7.md). -/
def Obligations.IllFormedCommandsAreIllegal : Prop :=
  ∀ (i : Instr) (s : State), ¬ WellFormed i → ∃ t, exec i s = .next t ∧ OnlyRecords 1#4 s t

/-- Every step keeps the invariant: NF stays at most 8, the reserved STATUS bits stay 0, ERR stays no
reserved code, and M = 1 only while CK is the encoding of CRC, so that a match never outlives a
change to either side (10_state.md R26, R28, R29; 60_exceptions.md R140). -/
def Obligations.StepKeepsTheInvariant : Prop :=
  ∀ s t : State, s.Inv → step s = .next t → t.Inv

/-- The invariant holds right after reset, and a step that takes the reset input establishes it from
any state. -/
def Obligations.ResetEstablishesTheInvariant : Prop :=
  State.reset.Inv ∧
  ∀ (s : State) (rest : List HostAction), s.pending = .assertReset :: rest →
    ∃ t, step s = .next t ∧ t.Inv

/-- 30_encoding.md R69: the expansions, and the lengths the assembler refuses. -/
def Obligations.PseudoInstructionsExpand : Prop :=
  (∀ s : List Octet, expand (.crcstr s) = some (s.map .crcb)) ∧
  expand (.crcstr []) = some [] ∧
  (∀ a b c : Octet, expand (.cklds [a, b, c]) = some [.ckld 0 a, .ckld 1 b, .ckld 2 c]) ∧
  (∀ s : List Octet, s.length ≠ 3 → expand (.cklds s) = none) ∧
  (∀ s : List Octet, s.length ≤ 17 → ∃ script, expand (.txtlds s) = some script ∧
    script.length = s.length ∧ ∀ (i : Nat) (c : Octet), s[i]? = some c → script[i]? = some (.txtld i c)) ∧
  (∀ s : List Octet, 17 < s.length → expand (.txtlds s) = none) ∧
  expand .mskclr = some [.mskld .rq 0x00#8, .mskld .cp 0x00#8] ∧
  (∀ s : List Octet, expand (.crcgen s) = some ([.crcclr] ++ s.map .crcb ++ [.crcenc])) ∧
  (∀ (s : List Octet) (a b c : Octet), expand (.crcver s [a, b, c]) =
    some ([.crcclr] ++ s.map .crcb ++ [.ckld 0 a, .ckld 1 b, .ckld 2 c] ++ [.crcchk])) ∧
  ∀ s cand : List Octet, cand.length ≠ 3 → expand (.crcver s cand) = none
end

