-- ==== Sys2Proof/Laws/State.lean ====
section
/-! SUPPORT. One lemma for each field of State under each update, and the laws of the STATUS fields. -/

namespace Sys2Proof.Machine

/-! ### STATUS as an octet -/

theorem statusWithM_getLsbD (st : Octet) (m : Bool) (i : Nat) :
    (statusWithM st m).getLsbD i = if i = 0 then m else st.getLsbD i := by
  unfold statusWithM
  by_cases hi : i < 8
  · interval_cases i <;> cases m <;> simp
  · rw [BitVec.getLsbD_of_ge _ i (by omega), if_neg (by omega), BitVec.getLsbD_of_ge _ i (by omega)]

theorem statusWithErr_getLsbD (st : Octet) (e : BitVec 4) (i : Nat) :
    (statusWithErr st e).getLsbD i = if 4 ≤ i then e.getLsbD (i - 4) else st.getLsbD i := by
  unfold statusWithErr
  by_cases hi : i < 8
  · interval_cases i <;> simp
  · rw [BitVec.getLsbD_of_ge _ i (by omega), if_pos (by omega), BitVec.getLsbD_of_ge _ _ (by omega)]

@[simp] theorem statusM_withM (st : Octet) (m : Bool) : statusM (statusWithM st m) = m := by
  rw [statusM, statusWithM_getLsbD, if_pos rfl]

@[simp] theorem statusErr_withM (st : Octet) (m : Bool) : statusErr (statusWithM st m) = statusErr st := by
  apply BitVec.eq_of_getLsbD_eq
  simp [statusErr, statusWithM_getLsbD]

@[simp] theorem statusReserved_withM (st : Octet) (m : Bool) :
    statusReserved (statusWithM st m) = statusReserved st := by
  apply BitVec.eq_of_getLsbD_eq
  simp [statusReserved, statusWithM_getLsbD]

@[simp] theorem statusM_withErr (st : Octet) (e : BitVec 4) : statusM (statusWithErr st e) = statusM st := by
  rw [statusM, statusWithErr_getLsbD, if_neg (by decide), statusM]

@[simp] theorem statusErr_withErr (st : Octet) (e : BitVec 4) : statusErr (statusWithErr st e) = e := by
  apply BitVec.eq_of_getLsbD_eq
  intro i hi
  simp [statusErr, statusWithErr_getLsbD, hi]

@[simp] theorem statusReserved_withErr (st : Octet) (e : BitVec 4) :
    statusReserved (statusWithErr st e) = statusReserved st := by
  apply BitVec.eq_of_getLsbD_eq
  intro i hi
  simp [statusReserved, statusWithErr_getLsbD, hi]
  omega

/-- STATUS is its three fields (10_state.md R28). -/
theorem status_ext {a b : Octet} (hm : statusM a = statusM b) (hr : statusReserved a = statusReserved b)
    (he : statusErr a = statusErr b) : a = b := by
  apply BitVec.eq_of_getLsbD_eq
  intro i hi
  have r (j : Nat) := congrArg (·.getLsbD j) hr
  have e (j : Nat) := congrArg (·.getLsbD j) he
  simp only [statusReserved, statusErr, BitVec.getLsbD_extractLsb'] at r e
  rcases Nat.lt_or_ge i 4 with h | h
  · rcases Nat.eq_zero_or_pos i with rfl | h0
    · exact hm
    · simpa [show i - 1 < 3 by omega, show 1 + (i - 1) = i by omega] using r (i - 1)
  · simpa [show i - 4 < 4 by omega, show 4 + (i - 4) = i by omega] using e (i - 4)

/-! ### The fields of STATUS in a state -/

@[simp] theorem State.m_setM (s : State) (m : Bool) : (s.setM m).m = m := statusM_withM _ _
@[simp] theorem State.err_setM (s : State) (m : Bool) : (s.setM m).err = s.err := statusErr_withM _ _
@[simp] theorem State.m_setErr (s : State) (e : BitVec 4) : (s.setErr e).m = s.m := statusM_withErr _ _
@[simp] theorem State.err_setErr (s : State) (e : BitVec 4) : (s.setErr e).err = e := statusErr_withErr _ _
@[simp] theorem State.reserved_setM (s : State) (m : Bool) :
    statusReserved (s.setM m).status = statusReserved s.status := statusReserved_withM _ _
@[simp] theorem State.reserved_setErr (s : State) (e : BitVec 4) :
    statusReserved (s.setErr e).status = statusReserved s.status := statusReserved_withErr _ _

/-! ### M and ERR are fields of STATUS alone -/

@[simp] theorem statusM_status (s : State) : statusM s.status = s.m := rfl
@[simp] theorem statusErr_status (s : State) : statusErr s.status = s.err := rfl
@[simp] theorem State.m_mk (crc ck rq cp nf st txt pending readData wasReset) :
    (State.mk crc ck rq cp nf st txt pending readData wasReset).m = statusM st := rfl
@[simp] theorem State.err_mk (crc ck rq cp nf st txt pending readData wasReset) :
    (State.mk crc ck rq cp nf st txt pending readData wasReset).err = statusErr st := rfl

/-- M of a state with a given STATUS. -/
theorem State.m_congr {s t : State} (h : t.status = s.status) : t.m = s.m := by rw [State.m, h, State.m]

/-- ERR of a state with a given STATUS. -/
theorem State.err_congr {s t : State} (h : t.status = s.status) : t.err = s.err := by
  rw [State.err, h, State.err]

@[simp] theorem State.m_setCk (s : State) (k : Nat) (c : Octet) : (s.setCk k c).m = s.m := rfl
@[simp] theorem State.err_setCk (s : State) (k : Nat) (c : Octet) : (s.setCk k c).err = s.err := rfl
@[simp] theorem State.m_setTxt (s : State) (i : Nat) (c : Octet) : (s.setTxt i c).m = s.m := rfl
@[simp] theorem State.err_setTxt (s : State) (i : Nat) (c : Octet) : (s.setTxt i c).err = s.err := rfl
@[simp] theorem State.m_setMask (s : State) (r : MaskSel) (m : Octet) : (s.setMask r m).m = s.m := by
  cases r <;> rfl
@[simp] theorem State.err_setMask (s : State) (r : MaskSel) (m : Octet) : (s.setMask r m).err = s.err := by
  cases r <;> rfl

/-! ### `setM` leaves every other field -/

@[simp] theorem State.crc_setM (s : State) (m : Bool) : (s.setM m).crc = s.crc := rfl
@[simp] theorem State.ck_setM (s : State) (m : Bool) : (s.setM m).ck = s.ck := rfl
@[simp] theorem State.rq_setM (s : State) (m : Bool) : (s.setM m).rq = s.rq := rfl
@[simp] theorem State.cp_setM (s : State) (m : Bool) : (s.setM m).cp = s.cp := rfl
@[simp] theorem State.nf_setM (s : State) (m : Bool) : (s.setM m).nf = s.nf := rfl
@[simp] theorem State.txt_setM (s : State) (m : Bool) : (s.setM m).txt = s.txt := rfl
@[simp] theorem State.pending_setM (s : State) (m : Bool) : (s.setM m).pending = s.pending := rfl
@[simp] theorem State.readData_setM (s : State) (m : Bool) : (s.setM m).readData = s.readData := rfl
@[simp] theorem State.wasReset_setM (s : State) (m : Bool) : (s.setM m).wasReset = s.wasReset := rfl

/-! ### `setErr` leaves every other field -/

@[simp] theorem State.crc_setErr (s : State) (e : BitVec 4) : (s.setErr e).crc = s.crc := rfl
@[simp] theorem State.ck_setErr (s : State) (e : BitVec 4) : (s.setErr e).ck = s.ck := rfl
@[simp] theorem State.rq_setErr (s : State) (e : BitVec 4) : (s.setErr e).rq = s.rq := rfl
@[simp] theorem State.cp_setErr (s : State) (e : BitVec 4) : (s.setErr e).cp = s.cp := rfl
@[simp] theorem State.nf_setErr (s : State) (e : BitVec 4) : (s.setErr e).nf = s.nf := rfl
@[simp] theorem State.txt_setErr (s : State) (e : BitVec 4) : (s.setErr e).txt = s.txt := rfl
@[simp] theorem State.pending_setErr (s : State) (e : BitVec 4) : (s.setErr e).pending = s.pending := rfl
@[simp] theorem State.readData_setErr (s : State) (e : BitVec 4) : (s.setErr e).readData = s.readData := rfl
@[simp] theorem State.wasReset_setErr (s : State) (e : BitVec 4) : (s.setErr e).wasReset = s.wasReset := rfl

/-! ### `setCk` leaves every other field -/

@[simp] theorem State.crc_setCk (s : State) (k : Nat) (c : Octet) : (s.setCk k c).crc = s.crc := rfl
@[simp] theorem State.rq_setCk (s : State) (k : Nat) (c : Octet) : (s.setCk k c).rq = s.rq := rfl
@[simp] theorem State.cp_setCk (s : State) (k : Nat) (c : Octet) : (s.setCk k c).cp = s.cp := rfl
@[simp] theorem State.nf_setCk (s : State) (k : Nat) (c : Octet) : (s.setCk k c).nf = s.nf := rfl
@[simp] theorem State.status_setCk (s : State) (k : Nat) (c : Octet) : (s.setCk k c).status = s.status := rfl
@[simp] theorem State.txt_setCk (s : State) (k : Nat) (c : Octet) : (s.setCk k c).txt = s.txt := rfl
@[simp] theorem State.pending_setCk (s : State) (k : Nat) (c : Octet) : (s.setCk k c).pending = s.pending := rfl
@[simp] theorem State.readData_setCk (s : State) (k : Nat) (c : Octet) : (s.setCk k c).readData = s.readData := rfl
@[simp] theorem State.wasReset_setCk (s : State) (k : Nat) (c : Octet) : (s.setCk k c).wasReset = s.wasReset := rfl

/-! ### `setTxt` leaves every other field -/

@[simp] theorem State.crc_setTxt (s : State) (i : Nat) (c : Octet) : (s.setTxt i c).crc = s.crc := rfl
@[simp] theorem State.ck_setTxt (s : State) (i : Nat) (c : Octet) : (s.setTxt i c).ck = s.ck := rfl
@[simp] theorem State.rq_setTxt (s : State) (i : Nat) (c : Octet) : (s.setTxt i c).rq = s.rq := rfl
@[simp] theorem State.cp_setTxt (s : State) (i : Nat) (c : Octet) : (s.setTxt i c).cp = s.cp := rfl
@[simp] theorem State.nf_setTxt (s : State) (i : Nat) (c : Octet) : (s.setTxt i c).nf = s.nf := rfl
@[simp] theorem State.status_setTxt (s : State) (i : Nat) (c : Octet) : (s.setTxt i c).status = s.status := rfl
@[simp] theorem State.pending_setTxt (s : State) (i : Nat) (c : Octet) : (s.setTxt i c).pending = s.pending := rfl
@[simp] theorem State.readData_setTxt (s : State) (i : Nat) (c : Octet) : (s.setTxt i c).readData = s.readData := rfl
@[simp] theorem State.wasReset_setTxt (s : State) (i : Nat) (c : Octet) : (s.setTxt i c).wasReset = s.wasReset := rfl

@[simp] theorem State.ck_setCk (s : State) (k : Nat) (c : Octet) : (s.setCk k c).ck = s.ck.setIfInBounds k c := rfl
@[simp] theorem State.txt_setTxt (s : State) (i : Nat) (c : Octet) : (s.setTxt i c).txt = s.txt.setIfInBounds i c := rfl

/-! ### `setCrc` -/

@[simp] theorem State.crc_setCrc (s : State) (c : Crc16) : (s.setCrc c).crc = c := rfl
@[simp] theorem State.ck_setCrc (s : State) (c : Crc16) : (s.setCrc c).ck = s.ck := rfl
@[simp] theorem State.rq_setCrc (s : State) (c : Crc16) : (s.setCrc c).rq = s.rq := rfl
@[simp] theorem State.cp_setCrc (s : State) (c : Crc16) : (s.setCrc c).cp = s.cp := rfl
@[simp] theorem State.nf_setCrc (s : State) (c : Crc16) : (s.setCrc c).nf = s.nf := rfl
@[simp] theorem State.status_setCrc (s : State) (c : Crc16) : (s.setCrc c).status = s.status := rfl
@[simp] theorem State.txt_setCrc (s : State) (c : Crc16) : (s.setCrc c).txt = s.txt := rfl
@[simp] theorem State.pending_setCrc (s : State) (c : Crc16) : (s.setCrc c).pending = s.pending := rfl
@[simp] theorem State.readData_setCrc (s : State) (c : Crc16) : (s.setCrc c).readData = s.readData := rfl
@[simp] theorem State.wasReset_setCrc (s : State) (c : Crc16) : (s.setCrc c).wasReset = s.wasReset := rfl
@[simp] theorem State.m_setCrc (s : State) (c : Crc16) : (s.setCrc c).m = s.m := rfl
@[simp] theorem State.err_setCrc (s : State) (c : Crc16) : (s.setCrc c).err = s.err := rfl

/-! ### `setNf` -/

@[simp] theorem State.crc_setNf (s : State) (n : BitVec 4) : (s.setNf n).crc = s.crc := rfl
@[simp] theorem State.ck_setNf (s : State) (n : BitVec 4) : (s.setNf n).ck = s.ck := rfl
@[simp] theorem State.rq_setNf (s : State) (n : BitVec 4) : (s.setNf n).rq = s.rq := rfl
@[simp] theorem State.cp_setNf (s : State) (n : BitVec 4) : (s.setNf n).cp = s.cp := rfl
@[simp] theorem State.nf_setNf (s : State) (n : BitVec 4) : (s.setNf n).nf = n := rfl
@[simp] theorem State.status_setNf (s : State) (n : BitVec 4) : (s.setNf n).status = s.status := rfl
@[simp] theorem State.txt_setNf (s : State) (n : BitVec 4) : (s.setNf n).txt = s.txt := rfl
@[simp] theorem State.pending_setNf (s : State) (n : BitVec 4) : (s.setNf n).pending = s.pending := rfl
@[simp] theorem State.readData_setNf (s : State) (n : BitVec 4) : (s.setNf n).readData = s.readData := rfl
@[simp] theorem State.wasReset_setNf (s : State) (n : BitVec 4) : (s.setNf n).wasReset = s.wasReset := rfl
@[simp] theorem State.m_setNf (s : State) (n : BitVec 4) : (s.setNf n).m = s.m := rfl
@[simp] theorem State.err_setNf (s : State) (n : BitVec 4) : (s.setNf n).err = s.err := rfl

/-! ### `setCks` -/

@[simp] theorem State.crc_setCks (s : State) (v : Vector Octet 3) : (s.setCks v).crc = s.crc := rfl
@[simp] theorem State.ck_setCks (s : State) (v : Vector Octet 3) : (s.setCks v).ck = v := rfl
@[simp] theorem State.rq_setCks (s : State) (v : Vector Octet 3) : (s.setCks v).rq = s.rq := rfl
@[simp] theorem State.cp_setCks (s : State) (v : Vector Octet 3) : (s.setCks v).cp = s.cp := rfl
@[simp] theorem State.nf_setCks (s : State) (v : Vector Octet 3) : (s.setCks v).nf = s.nf := rfl
@[simp] theorem State.status_setCks (s : State) (v : Vector Octet 3) : (s.setCks v).status = s.status := rfl
@[simp] theorem State.txt_setCks (s : State) (v : Vector Octet 3) : (s.setCks v).txt = s.txt := rfl
@[simp] theorem State.pending_setCks (s : State) (v : Vector Octet 3) : (s.setCks v).pending = s.pending := rfl
@[simp] theorem State.readData_setCks (s : State) (v : Vector Octet 3) : (s.setCks v).readData = s.readData := rfl
@[simp] theorem State.wasReset_setCks (s : State) (v : Vector Octet 3) : (s.setCks v).wasReset = s.wasReset := rfl
@[simp] theorem State.m_setCks (s : State) (v : Vector Octet 3) : (s.setCks v).m = s.m := rfl
@[simp] theorem State.err_setCks (s : State) (v : Vector Octet 3) : (s.setCks v).err = s.err := rfl

/-! ### `setTxts` -/

@[simp] theorem State.crc_setTxts (s : State) (v : Vector Octet 17) : (s.setTxts v).crc = s.crc := rfl
@[simp] theorem State.ck_setTxts (s : State) (v : Vector Octet 17) : (s.setTxts v).ck = s.ck := rfl
@[simp] theorem State.rq_setTxts (s : State) (v : Vector Octet 17) : (s.setTxts v).rq = s.rq := rfl
@[simp] theorem State.cp_setTxts (s : State) (v : Vector Octet 17) : (s.setTxts v).cp = s.cp := rfl
@[simp] theorem State.nf_setTxts (s : State) (v : Vector Octet 17) : (s.setTxts v).nf = s.nf := rfl
@[simp] theorem State.status_setTxts (s : State) (v : Vector Octet 17) : (s.setTxts v).status = s.status := rfl
@[simp] theorem State.txt_setTxts (s : State) (v : Vector Octet 17) : (s.setTxts v).txt = v := rfl
@[simp] theorem State.pending_setTxts (s : State) (v : Vector Octet 17) : (s.setTxts v).pending = s.pending := rfl
@[simp] theorem State.readData_setTxts (s : State) (v : Vector Octet 17) : (s.setTxts v).readData = s.readData := rfl
@[simp] theorem State.wasReset_setTxts (s : State) (v : Vector Octet 17) : (s.setTxts v).wasReset = s.wasReset := rfl
@[simp] theorem State.m_setTxts (s : State) (v : Vector Octet 17) : (s.setTxts v).m = s.m := rfl
@[simp] theorem State.err_setTxts (s : State) (v : Vector Octet 17) : (s.setTxts v).err = s.err := rfl

/-! ### `setMasks` -/

@[simp] theorem State.crc_setMasks (s : State) (a b : Octet) : (s.setMasks a b).crc = s.crc := rfl
@[simp] theorem State.ck_setMasks (s : State) (a b : Octet) : (s.setMasks a b).ck = s.ck := rfl
@[simp] theorem State.rq_setMasks (s : State) (a b : Octet) : (s.setMasks a b).rq = a := rfl
@[simp] theorem State.cp_setMasks (s : State) (a b : Octet) : (s.setMasks a b).cp = b := rfl
@[simp] theorem State.nf_setMasks (s : State) (a b : Octet) : (s.setMasks a b).nf = s.nf := rfl
@[simp] theorem State.status_setMasks (s : State) (a b : Octet) : (s.setMasks a b).status = s.status := rfl
@[simp] theorem State.txt_setMasks (s : State) (a b : Octet) : (s.setMasks a b).txt = s.txt := rfl
@[simp] theorem State.pending_setMasks (s : State) (a b : Octet) : (s.setMasks a b).pending = s.pending := rfl
@[simp] theorem State.readData_setMasks (s : State) (a b : Octet) : (s.setMasks a b).readData = s.readData := rfl
@[simp] theorem State.wasReset_setMasks (s : State) (a b : Octet) : (s.setMasks a b).wasReset = s.wasReset := rfl
@[simp] theorem State.m_setMasks (s : State) (a b : Octet) : (s.setMasks a b).m = s.m := rfl
@[simp] theorem State.err_setMasks (s : State) (a b : Octet) : (s.setMasks a b).err = s.err := rfl

/-! ### `setMask` leaves every other field -/

@[simp] theorem State.crc_setMask (s : State) (r : MaskSel) (m : Octet) : (s.setMask r m).crc = s.crc := by
  cases r <;> rfl
@[simp] theorem State.ck_setMask (s : State) (r : MaskSel) (m : Octet) : (s.setMask r m).ck = s.ck := by
  cases r <;> rfl
@[simp] theorem State.nf_setMask (s : State) (r : MaskSel) (m : Octet) : (s.setMask r m).nf = s.nf := by
  cases r <;> rfl
@[simp] theorem State.status_setMask (s : State) (r : MaskSel) (m : Octet) : (s.setMask r m).status = s.status := by
  cases r <;> rfl
@[simp] theorem State.txt_setMask (s : State) (r : MaskSel) (m : Octet) : (s.setMask r m).txt = s.txt := by
  cases r <;> rfl
@[simp] theorem State.pending_setMask (s : State) (r : MaskSel) (m : Octet) : (s.setMask r m).pending = s.pending := by
  cases r <;> rfl
@[simp] theorem State.readData_setMask (s : State) (r : MaskSel) (m : Octet) : (s.setMask r m).readData = s.readData := by
  cases r <;> rfl
@[simp] theorem State.wasReset_setMask (s : State) (r : MaskSel) (m : Octet) : (s.setMask r m).wasReset = s.wasReset := by
  cases r <;> rfl
@[simp] theorem State.mask_setMask (s : State) (r : MaskSel) (m : Octet) : (s.setMask r m).mask r = m := by
  cases r <;> rfl

@[simp] theorem State.rq_setMask_rq (s : State) (m : Octet) : (s.setMask .rq m).rq = m := rfl
@[simp] theorem State.cp_setMask_rq (s : State) (m : Octet) : (s.setMask .rq m).cp = s.cp := rfl
@[simp] theorem State.rq_setMask_cp (s : State) (m : Octet) : (s.setMask .cp m).rq = s.rq := rfl
@[simp] theorem State.cp_setMask_cp (s : State) (m : Octet) : (s.setMask .cp m).cp = m := rfl
@[simp] theorem State.mask_rq (s : State) : s.mask .rq = s.rq := rfl
@[simp] theorem State.mask_cp (s : State) : s.mask .cp = s.cp := rfl

/-! ### `record` leaves every other field -/

@[simp] theorem record_crc (e : ErrorKind) (s : State) : (record e s).crc = s.crc := by
  unfold record; split <;> rfl
@[simp] theorem record_ck (e : ErrorKind) (s : State) : (record e s).ck = s.ck := by
  unfold record; split <;> rfl
@[simp] theorem record_rq (e : ErrorKind) (s : State) : (record e s).rq = s.rq := by
  unfold record; split <;> rfl
@[simp] theorem record_cp (e : ErrorKind) (s : State) : (record e s).cp = s.cp := by
  unfold record; split <;> rfl
@[simp] theorem record_nf (e : ErrorKind) (s : State) : (record e s).nf = s.nf := by
  unfold record; split <;> rfl
@[simp] theorem record_txt (e : ErrorKind) (s : State) : (record e s).txt = s.txt := by
  unfold record; split <;> rfl
@[simp] theorem record_pending (e : ErrorKind) (s : State) : (record e s).pending = s.pending := by
  unfold record; split <;> rfl
@[simp] theorem record_readData (e : ErrorKind) (s : State) : (record e s).readData = s.readData := by
  unfold record; split <;> rfl
@[simp] theorem record_wasReset (e : ErrorKind) (s : State) : (record e s).wasReset = s.wasReset := by
  unfold record; split <;> rfl

/-! ### Reset and READ -/

@[simp] theorem applyReset_crc (s : State) : (applyReset s).crc = State.reset.crc := rfl
@[simp] theorem applyReset_ck (s : State) : (applyReset s).ck = State.reset.ck := rfl
@[simp] theorem applyReset_rq (s : State) : (applyReset s).rq = State.reset.rq := rfl
@[simp] theorem applyReset_cp (s : State) : (applyReset s).cp = State.reset.cp := rfl
@[simp] theorem applyReset_nf (s : State) : (applyReset s).nf = State.reset.nf := rfl
@[simp] theorem applyReset_status (s : State) : (applyReset s).status = State.reset.status := rfl
@[simp] theorem applyReset_txt (s : State) : (applyReset s).txt = State.reset.txt := rfl
@[simp] theorem applyReset_pending (s : State) : (applyReset s).pending = s.pending := rfl
@[simp] theorem applyReset_readData (s : State) : (applyReset s).readData = s.readData := rfl
@[simp] theorem applyReset_wasReset (s : State) : (applyReset s).wasReset = State.reset.wasReset := rfl
@[simp] theorem performRead_crc (a : Address) (s : State) : (performRead a s).crc = s.crc := rfl
@[simp] theorem performRead_ck (a : Address) (s : State) : (performRead a s).ck = s.ck := rfl
@[simp] theorem performRead_rq (a : Address) (s : State) : (performRead a s).rq = s.rq := rfl
@[simp] theorem performRead_cp (a : Address) (s : State) : (performRead a s).cp = s.cp := rfl
@[simp] theorem performRead_nf (a : Address) (s : State) : (performRead a s).nf = s.nf := rfl
@[simp] theorem performRead_status (a : Address) (s : State) : (performRead a s).status = s.status := rfl
@[simp] theorem performRead_txt (a : Address) (s : State) : (performRead a s).txt = s.txt := rfl
@[simp] theorem performRead_pending (a : Address) (s : State) : (performRead a s).pending = s.pending := rfl
@[simp] theorem performRead_readData (a : Address) (s : State) :
    (performRead a s).readData = s.readData ++ [readPort s a] := rfl
@[simp] theorem performRead_wasReset (a : Address) (s : State) : (performRead a s).wasReset = s.wasReset := rfl

/-! ### Recording -/

@[simp] theorem record_err (e : ErrorKind) (s : State) :
    (record e s).err = if s.err = 0#4 then e.code else s.err := by
  unfold record; split <;> simp_all

@[simp] theorem record_m (e : ErrorKind) (s : State) : (record e s).m = s.m := by
  unfold record; split <;> simp

@[simp] theorem record_reserved (e : ErrorKind) (s : State) :
    statusReserved (record e s).status = statusReserved s.status := by
  unfold record; split <;> simp

end Sys2Proof.Machine
end

