-- ==== Sys2Proof/Laws/Crc.lean ====
section
/-! SUPPORT. The arithmetic of the CRC unit over GF(2) (40_crc.md R89) and its comparison. -/

namespace Sys2Proof.Machine

/-- One iteration is linear. -/
theorem crcShift_xor (a b : Crc16) : crcShift (a ^^^ b) = crcShift a ^^^ crcShift b := by
  unfold crcShift
  rw [BitVec.getLsbD_xor, BitVec.ushiftRight_xor_distrib]
  cases a.getLsbD 0 <;> cases b.getLsbD 0 <;> simp
  · rw [BitVec.xor_assoc]
  · ac_rfl
  · rw [BitVec.xor_comm (a >>> 1) crcPoly, BitVec.xor_assoc, ← BitVec.xor_assoc (a >>> 1),
      BitVec.xor_comm (a >>> 1 ^^^ b >>> 1), ← BitVec.xor_assoc]
    simp

theorem crcShifts_xor (n : Nat) (a b : Crc16) :
    crcShifts n (a ^^^ b) = crcShifts n a ^^^ crcShifts n b := by
  induction n generalizing a b with
  | zero => rfl
  | succ n ih => simp only [crcShifts, crcShift_xor, ih]

/-- One iteration loses nothing: the feedback constant has its top bit set. -/
theorem crcShift_eq_zero {c : Crc16} (h : crcShift c = 0#16) : c = 0#16 := by
  have h15 := congrArg (·.getLsbD 15) h
  unfold crcShift at h h15
  cases h0 : c.getLsbD 0
  · rw [h0] at h
    apply BitVec.eq_of_getLsbD_eq
    intro i hi
    rcases Nat.eq_zero_or_pos i with rfl | hp
    · simpa using h0
    · have := congrArg (·.getLsbD (i - 1)) h
      simpa [BitVec.getLsbD_ushiftRight, show 1 + (i - 1) = i by omega] using this
  · rw [h0] at h15
    simp [crcPoly] at h15

/-- The bit-serial step is the iteration on the register with the bit fed in (40_crc.md R82). -/
theorem crcSerialBit_eq (c : Crc16) (bit : Bool) :
    crcSerialBit c bit = crcShift (c ^^^ BitVec.ofNat 16 bit.toNat) := by
  rw [crcShift_xor]
  cases bit
  · simp [crcSerialBit, crcShift]
  · unfold crcSerialBit crcShift
    cases c.getLsbD 0 <;> simp

/-- Three checksum characters are equal when each is. -/
theorem ck_ext {a b : Vector Octet 3} (h0 : a[0] = b[0]) (h1 : a[1] = b[1]) (h2 : a[2] = b[2]) : a = b := by
  apply Vector.ext
  intro i hi
  interval_cases i <;> assumption

/-- CRCCHK's comparison holds exactly when CK is the encoding of CRC (40_crc.md R85). -/
theorem checksumMatches_iff (s : State) : checksumMatches s = true ↔ s.ck = enc s.crc := by
  constructor
  · intro h
    simp only [checksumMatches, Bool.and_eq_true, decide_eq_true_eq] at h
    exact ck_ext h.1.1 h.1.2 h.2
  · intro h
    simp [checksumMatches, h]

end Sys2Proof.Machine
end

