-- ==== Sys2Proof/Laws/Encoding.lean ====
section
/-! SUPPORT. The fields of a command word: what `commandWord` puts in each field the decoder reads, and
that a word is its fields. -/

namespace Sys2Proof

theorem commandWord_getLsbD (op idx : Nat) (imm : Octet) (i : Nat) :
    (commandWord op idx imm).getLsbD i =
      if i < 8 then imm.getLsbD i
      else if i < 16 then false
      else if i < 21 then (BitVec.ofNat 5 idx).getLsbD (i - 16)
      else if i < 24 then false
      else (BitVec.ofNat 8 op).getLsbD (i - 24) := by
  unfold commandWord
  rw [BitVec.getLsbD_or, BitVec.getLsbD_or, BitVec.getLsbD_shiftLeft, BitVec.getLsbD_shiftLeft,
    BitVec.getLsbD_setWidth, BitVec.getLsbD_setWidth, BitVec.getLsbD_setWidth]
  by_cases h32 : i < 32
  · by_cases h8 : i < 8
    · simp [h8, h32, show i < 24 by omega, show i < 16 by omega]
    · by_cases h16 : i < 16
      · simp [h8, h16, h32, show i < 24 by omega, BitVec.getLsbD_of_ge imm i (by omega)]
      · by_cases h21 : i < 21
        · simp [h8, h16, h21, h32, show i < 24 by omega, show i - 16 < 32 by omega,
            BitVec.getLsbD_of_ge imm i (by omega)]
        · have hidx := BitVec.getLsbD_of_ge (BitVec.ofNat 5 idx) (i - 16) (by omega)
          by_cases h24 : i < 24
          · simp [h8, h16, h21, h24, hidx, BitVec.getLsbD_of_ge imm i (by omega)]
          · simp [h8, h16, h21, h24, h32, hidx, show i - 24 < 32 by omega,
              BitVec.getLsbD_of_ge imm i (by omega)]
  · have hop := BitVec.getLsbD_of_ge (BitVec.ofNat 8 op) (i - 24) (by omega)
    simp [show ¬ i < 8 by omega, show ¬ i < 16 by omega, show ¬ i < 21 by omega,
      show ¬ i < 24 by omega, h32, hop, BitVec.getLsbD_of_ge imm i (by omega)]

@[simp] theorem opField_commandWord (op idx : Nat) (imm : Octet) :
    opField (commandWord op idx imm) = BitVec.ofNat 8 op := by
  apply BitVec.eq_of_getLsbD_eq
  intro i hi
  rw [opField, BitVec.getLsbD_extractLsb', commandWord_getLsbD]
  simp [hi, show ¬ 24 + i < 8 by omega, show ¬ 24 + i < 16 by omega, show ¬ 24 + i < 21 by omega]

@[simp] theorem reservedHigh_commandWord (op idx : Nat) (imm : Octet) :
    reservedHigh (commandWord op idx imm) = 0#3 := by
  apply BitVec.eq_of_getLsbD_eq
  intro i hi
  rw [reservedHigh, BitVec.getLsbD_extractLsb', commandWord_getLsbD]
  simp [show ¬ 21 + i < 8 by omega, show ¬ 21 + i < 16 by omega, show 21 + i < 24 by omega]

@[simp] theorem idxField_commandWord (op idx : Nat) (imm : Octet) :
    idxField (commandWord op idx imm) = BitVec.ofNat 5 idx := by
  apply BitVec.eq_of_getLsbD_eq
  intro i hi
  rw [idxField, BitVec.getLsbD_extractLsb', commandWord_getLsbD]
  simp [hi, show ¬ 16 + i < 8 by omega, show 16 + i < 21 by omega]

@[simp] theorem reservedLow_commandWord (op idx : Nat) (imm : Octet) :
    reservedLow (commandWord op idx imm) = 0#8 := by
  apply BitVec.eq_of_getLsbD_eq
  intro i hi
  rw [reservedLow, BitVec.getLsbD_extractLsb', commandWord_getLsbD]
  simp [show ¬ 8 + i < 8 by omega, show 8 + i < 16 by omega]

@[simp] theorem immField_commandWord (op idx : Nat) (imm : Octet) :
    immField (commandWord op idx imm) = imm := by
  apply BitVec.eq_of_getLsbD_eq
  intro i hi
  rw [immField, BitVec.getLsbD_extractLsb', commandWord_getLsbD]
  simp [hi]

/-- A word whose reserved bits are 0 is the command word of its fields (30_encoding.md R60). -/
theorem commandWord_of_fields (w : CommandWord) (hh : reservedHigh w = 0#3) (hl : reservedLow w = 0#8) :
    commandWord (opField w).toNat (idxField w).toNat (immField w) = w := by
  apply BitVec.eq_of_getLsbD_eq
  intro i hi
  have high (j : Nat) := congrArg (·.getLsbD j) hh
  have low (j : Nat) := congrArg (·.getLsbD j) hl
  simp only [reservedHigh, reservedLow, BitVec.getLsbD_extractLsb', BitVec.getLsbD_zero] at high low
  rw [commandWord_getLsbD]
  simp only [opField, idxField, immField, BitVec.ofNat_toNat, BitVec.setWidth_eq,
    BitVec.getLsbD_extractLsb']
  split
  · simp [*]
  split
  · simpa [show i - 8 < 8 by omega, show 8 + (i - 8) = i by omega] using (low (i - 8)).symm
  split
  · simp [show i - 16 < 5 by omega, show 16 + (i - 16) = i by omega]
  split
  · simpa [show i - 21 < 3 by omega, show 21 + (i - 21) = i by omega] using (high (i - 21)).symm
  · simp [show i - 24 < 8 by omega, show 24 + (i - 24) = i by omega]

/-- The decoder on a word given by its fields. -/
theorem decode_commandWord (op idx : Nat) (imm : Octet) (hop : op < 256) (hidx : idx < 32) :
    decode (commandWord op idx imm) = decodeOp op idx imm := by
  have hop' : op % 256 = op := Nat.mod_eq_of_lt hop
  have hidx' : idx % 32 = idx := Nat.mod_eq_of_lt hidx
  simp [decode, hop', hidx']

/-- What a word that decodes looks like: its reserved bits are 0 and `decodeOp` gives the command. -/
theorem decode_eq_ok {w : CommandWord} {i : Instr} (h : decode w = .ok i) :
    reservedHigh w = 0#3 ∧ reservedLow w = 0#8 ∧
      decodeOp (opField w).toNat (idxField w).toNat (immField w) = .ok i := by
  unfold decode at h
  split at h
  · rename_i hr; exact ⟨hr.1, hr.2, h⟩
  · cases h

/-- BSET's immediate splits back into selector and bit (30_encoding.md R61). -/
theorem bsetImm_fields (r : MaskSel) (b : Bool) :
    (bsetImm r b).extractLsb' 2 6 = 0#6 ∧ selOfBit ((bsetImm r b).getLsbD 1) = r ∧
      (bsetImm r b).getLsbD 0 = b := by
  cases r <;> cases b <;> decide

end Sys2Proof
end

