-- ==== Sys2Proof/Laws/Ops.lean ====
section
/-! SUPPORT. What the shared operations can do: the frame of a state seen through the read port, the
recording of an error, the operand registers, and runs of scripts. -/

namespace Sys2Proof.Machine

/-! ### The read port -/

/-- Address `0x10 + i` reads TXT octet `i` (20_memory.md R41). -/
theorem readPort_txt (s : State) (a : Address) (h : 0x10 ≤ a.toNat) (h' : a.toNat ≤ 0x20) :
    readPort s a = (txtAt s.txt (a.toNat - 0x10)).setWidth 16 := by
  unfold readPort
  split <;> first | omega | exact if_pos ⟨h, h'⟩

/-- A reserved address reads 0 (20_memory.md R42). -/
theorem readPort_reserved (s : State) (a : Address)
    (h : (0x08 ≤ a.toNat ∧ a.toNat ≤ 0x0F) ∨ 0x21 ≤ a.toNat) : readPort s a = 0x0000#16 := by
  unfold readPort
  split <;> first | omega | exact if_neg (by omega)

/-- Two states that agree on every register whose address is not listed read the same elsewhere. -/
theorem readsSameExcept_of {A : List Nat} {s t : State}
    (hcrc : 0x00 ∉ A → t.crc = s.crc) (hck0 : 0x01 ∉ A → t.ck[0] = s.ck[0])
    (hck1 : 0x02 ∉ A → t.ck[1] = s.ck[1]) (hck2 : 0x03 ∉ A → t.ck[2] = s.ck[2])
    (hrq : 0x04 ∉ A → t.rq = s.rq) (hcp : 0x05 ∉ A → t.cp = s.cp) (hnf : 0x06 ∉ A → t.nf = s.nf)
    (hst : 0x07 ∉ A → t.status = s.status)
    (htxt : ∀ i, i < 17 → 0x10 + i ∉ A → txtAt t.txt i = txtAt s.txt i) : ReadsSameExcept A s t := by
  intro a ha
  by_cases hr : (0x08 ≤ a.toNat ∧ a.toNat ≤ 0x0F) ∨ 0x21 ≤ a.toNat
  · rw [readPort_reserved t a hr, readPort_reserved s a hr]
  by_cases hx : 0x10 ≤ a.toNat
  · rw [readPort_txt t a hx (by omega), readPort_txt s a hx (by omega),
      htxt _ (by omega) (by rwa [show 0x10 + (a.toNat - 0x10) = a.toNat by omega])]
  have hlt : a.toNat < 8 := by omega
  unfold readPort
  split
  · rename_i h; rw [h] at ha; rw [hcrc ha]
  · rename_i h; rw [h] at ha; rw [hck0 ha]
  · rename_i h; rw [h] at ha; rw [hck1 ha]
  · rename_i h; rw [h] at ha; rw [hck2 ha]
  · rename_i h; rw [h] at ha; rw [hrq ha]
  · rename_i h; rw [h] at ha; rw [hcp ha]
  · rename_i h; rw [h] at ha; rw [hnf ha]
  · rename_i h; rw [h] at ha; rw [hst ha]
  · have hcase : a.toNat = 0 ∨ a.toNat = 1 ∨ a.toNat = 2 ∨ a.toNat = 3 ∨ a.toNat = 4 ∨ a.toNat = 5 ∨
        a.toNat = 6 ∨ a.toNat = 7 := by omega
    simp_all

theorem readsSameExcept_refl (A : List Nat) (s : State) : ReadsSameExcept A s s := fun _ _ => rfl

theorem sameHostSide_refl (s : State) : SameHostSide s s := ⟨rfl, rfl, rfl⟩

/-! ### Recording an error -/

/-- `raise E` answers a next state in which only the code is recorded (60_exceptions.md R142). -/
theorem record_onlyRecords (e : ErrorKind) (s : State) : OnlyRecords e.code s (record e s) := by
  refine ⟨⟨record_err e s, record_m e s, record_reserved e s⟩, ?_, ?_⟩
  · apply readsSameExcept_of <;> simp
  · simp [SameHostSide]

theorem clearError_of_noError {s : State} (h : s.err = 0#4) : clearError s = s := by
  have hs : statusWithErr s.status 0#4 = s.status :=
    status_ext (by simp) (by simp) (by rw [statusErr_withErr]; exact h.symm)
  simp [clearError, State.setErr, hs]

theorem setM_eq_self {s : State} {m : Bool} (h : s.m = m) : s.setM m = s := by
  have hs : statusWithM s.status m = s.status :=
    status_ext (by rw [statusM_withM]; exact h.symm) (by simp) (by simp)
  simp [State.setM, hs]

/-! ### Operand registers -/

theorem txtAt_eq (txt : Vector Octet 17) {i : Nat} (h : i < 17) : txtAt txt i = txt[i] := by
  simp [txtAt, Vector.getElem?_eq_getElem h]

theorem txtAt_set (txt : Vector Octet 17) (i j : Nat) (c : Octet) (hj : j < 17) :
    txtAt (txt.setIfInBounds i c) j = if i = j then c else txtAt txt j := by
  rw [txtAt_eq _ hj, txtAt_eq _ hj, Vector.getElem_setIfInBounds hj]

/-- `setBoolAt` writes bit `7 - i` and no other (41_packer.md R102). -/
theorem setBoolAt_getLsbD (mask : Octet) (i : Nat) (b : Bool) (j : Nat) (hi : i < 8) (hj : j < 8) :
    (setBoolAt mask i b).getLsbD (7 - j) = if j = i then b else mask.getLsbD (7 - j) := by
  unfold setBoolAt
  rw [if_pos hi]
  interval_cases i <;> interval_cases j <;> cases b <;> simp

/-! ### Scripts -/

theorem run_add (m n : Nat) (s : State) :
    Host.Core.run Sys2Proof.core (m + n) s =
      match Host.Core.run Sys2Proof.core m s with
      | .next t => Host.Core.run Sys2Proof.core n t
      | .fault r => .fault r
      | .refused r => .refused r := by
  induction m generalizing s with
  | zero => simp [Host.Core.run]
  | succ m ih =>
    rw [Nat.succ_add]
    simp only [Host.Core.run]
    cases Sys2Proof.core.step s with
    | next u => exact ih u
    | fault r => rfl
    | refused r => rfl

end Sys2Proof.Machine
end

