-- ==== Sys2Proof/Laws/Exec.lean ====
section
/-! SUPPORT. A command neither reads nor writes the host's side of the ports. -/

namespace Sys2Proof.Machine

/-- A state with other actions pending. -/
abbrev withPending (s : State) (p : List HostAction) : State := { s with pending := p }

/-- The next state of an outcome, changed by `f`. -/
def mapNext (f : State → State) : Host.Outcome State Fault Refusal → Host.Outcome State Fault Refusal
  | .next t => .next (f t)
  | .fault r => .fault r
  | .refused r => .refused r

theorem record_withPending (e : ErrorKind) (s : State) (p : List HostAction) :
    record e (withPending s p) = withPending (record e s) p := by
  unfold record
  show (if s.err = 0#4 then _ else _) = _
  split <;> rfl

/-- What is pending does not matter to a command. -/
theorem exec_withPending (i : Instr) (s : State) (p : List HostAction) :
    exec i (withPending s p) = mapNext (withPending · p) (exec i s) := by
  cases i with
  | crcclr => rfl
  | crcb b => rfl
  | crcenc => rfl
  | ckld k c =>
    simp only [exec, execCkld, raiseError, record_withPending]
    split <;> rfl
  | crcchk =>
    simp only [exec, execCrcchk, raiseError]
    show (if checksumMatches s then _ else Host.Outcome.next (record _ (withPending (s.setM false) p))) = _
    rw [record_withPending]
    split <;> rfl
  | nfset n =>
    simp only [exec, execNfset, raiseError, record_withPending]
    split <;> rfl
  | mskld r m => cases r <;> rfl
  | bset r i b =>
    simp only [exec, execBset, raiseError, record_withPending]
    split <;> cases r <;> rfl
  | packr => rfl
  | txtld i c =>
    simp only [exec, execTxtld, raiseError, record_withPending]
    split <;> rfl
  | unpackr =>
    simp only [exec, execUnpackr, raiseError, record_withPending]
    show (if txtAt s.txt 8 ≠ _ then _ else if (firstBadDigit s.txt s.nf.toNat).isSome then _ else _) = _
    split
    · rfl
    · split <;> rfl
  | errclr => rfl

end Sys2Proof.Machine
end

