-- ==== Sys2Proof/Laws/Packer.lean ====
section
/-! SUPPORT. The bit-packer's functions position by position. -/

namespace Sys2Proof.Machine

/-- Masks are equal when they agree at every position. -/
theorem mask_ext {a b : Octet} (h : ∀ j, j < 8 → a.getLsbD (7 - j) = b.getLsbD (7 - j)) : a = b := by
  apply BitVec.eq_of_getLsbD_eq
  intro i hi
  have := h (7 - i) (by omega)
  rwa [show 7 - (7 - i) = i by omega] at this

theorem digit_eq (mask : Octet) (n i : Nat) (h : i ≤ 7) :
    digit mask n i = if i < n ∧ mask.getLsbD (7 - i) = true then 0x31#8 else 0x30#8 := by
  unfold digit
  rw [show boolAt mask i = mask.getLsbD (7 - i) by simp [boolAt]; omega]
  simp [charOne, charZero]

theorem packText_getElem? (rq cp : Octet) (n j : Nat) (hj : j < 17) :
    (packText rq cp n)[j]? = some (packAt rq cp n j) := by
  simp [packText, hj]

/-- The mask UNPACKR builds, position by position (41_packer.md R106). -/
theorem unpackHalf_getLsbD (txt : Vector Octet 17) (base n : Nat) (hn : n ≤ 8) (j : Nat) (hj : j < 8) :
    (unpackHalf txt base n).getLsbD (7 - j) =
      (decide (j < n) && decide (txtAt txt (base + j) = 0x31#8)) := by
  induction n with
  | zero => simp [unpackHalf]
  | succ n ih =>
    have e : unpackHalf txt base (n + 1) =
        setBoolAt (unpackHalf txt base n) n (decide (txtAt txt (base + n) = charOne)) := by
      simp [unpackHalf, List.range_succ]
    rw [e, setBoolAt_getLsbD _ _ _ _ (by omega) hj, ih (by omega)]
    by_cases h : j = n
    · subst h; simp; rfl
    · rw [if_neg h]; congr 1; simp; omega

theorem isDigit_eq_false_iff (c : Octet) : isDigit c = false ↔ BadDigit c := by
  unfold isDigit BadDigit charZero charOne
  rw [Bool.or_eq_false_iff, decide_eq_false_iff_not, decide_eq_false_iff_not]

/-- UNPACKR finds a bad digit exactly when an examined octet is one (41_packer.md R106). -/
theorem firstBadDigit_isSome_iff (txt : Vector Octet 17) (n : Nat) : (firstBadDigit txt n).isSome = true ↔
    ∃ i, i < n ∧ (BadDigit (txtAt txt i) ∨ BadDigit (txtAt txt (9 + i))) := by
  unfold firstBadDigit examined
  rw [List.find?_isSome]
  simp only [List.mem_append, List.mem_range, List.mem_map, Bool.not_eq_true', isDigit_eq_false_iff]
  constructor
  · rintro ⟨x, h | ⟨a, h, rfl⟩, hb⟩
    · exact ⟨x, h, .inl hb⟩
    · exact ⟨a, h, .inr hb⟩
  · rintro ⟨i, h, hb | hb⟩
    · exact ⟨i, .inl h, hb⟩
    · exact ⟨9 + i, .inr ⟨i, h, rfl⟩, hb⟩

/-- A text that UNPACKR accepts is one of a field count of at most 8: at a larger count the separator
itself would be examined as a digit (notes/assumptions/6.md). -/
theorem unpackLegal_fieldCount {s : State} (h : UnpackLegal s) : s.nf.toNat ≤ 8 := by
  by_contra hc
  have hb := (h.2 8 (by omega)).1
  rw [h.1] at hb
  exact hb ⟨by decide, by decide⟩

end Sys2Proof.Machine
end

