-- ==== Sys2Proof/Laws/PerInstr.lean ====
section
/-! SUPPORT. Per-command lemmas, one for each constructor of Instr. -/

namespace Sys2Proof.Laws.EncodesItsOpcode

/-- The opcode of a command (30_encoding.md R62). -/
def opcode : Instr → BitVec 8
  | .crcclr => 0x01#8
  | .crcb _ => 0x02#8
  | .crcenc => 0x03#8
  | .ckld _ _ => 0x04#8
  | .crcchk => 0x05#8
  | .nfset _ => 0x06#8
  | .mskld _ _ => 0x07#8
  | .bset _ _ _ => 0x08#8
  | .packr => 0x09#8
  | .txtld _ _ => 0x0A#8
  | .unpackr => 0x0B#8
  | .errclr => 0x0C#8

/-- A command's word carries its opcode, and its reserved bits are 0 (30_encoding.md R60, R62). -/
def Statement (i : Instr) : Prop :=
  opField (encode i) = opcode i ∧ reservedHigh (encode i) = 0#3 ∧ reservedLow (encode i) = 0#8

theorem crcclr : Statement .crcclr := by simp [Statement, encode, opcode]
theorem crcb (b : Octet) : Statement (.crcb b) := by simp [Statement, encode, opcode]
theorem crcenc : Statement .crcenc := by simp [Statement, encode, opcode]
theorem ckld (k : Nat) (c : Octet) : Statement (.ckld k c) := by simp [Statement, encode, opcode]
theorem crcchk : Statement .crcchk := by simp [Statement, encode, opcode]
theorem nfset (n : Octet) : Statement (.nfset n) := by simp [Statement, encode, opcode]
theorem mskld (r : MaskSel) (m : Octet) : Statement (.mskld r m) := by simp [Statement, encode, opcode]
theorem bset (r : MaskSel) (i : Nat) (b : Bool) : Statement (.bset r i b) := by
  simp [Statement, encode, opcode]
theorem packr : Statement .packr := by simp [Statement, encode, opcode]
theorem txtld (i : Nat) (c : Octet) : Statement (.txtld i c) := by simp [Statement, encode, opcode]
theorem unpackr : Statement .unpackr := by simp [Statement, encode, opcode]
theorem errclr : Statement .errclr := by simp [Statement, encode, opcode]

end Sys2Proof.Laws.EncodesItsOpcode
end

