-- ==== Sys2Proof/Tests/Slice0.lean ====
section
/-! SUPPORT. The model's own tests: expected values are those of 30_encoding.md R70 and
95_test_vectors.md. After them, for every statement with hypotheses, a witness that meets them. -/

namespace Sys2Proof.Tests

open Sys2Proof.Machine

/-- The next state of an outcome. -/
def nextOf : Host.Outcome State Fault Refusal → Option State
  | .next t => some t
  | .fault _ => none
  | .refused _ => none

/-- The state after the block takes the command word `w`. -/
def after (s : State) (w : Nat) : Option State := nextOf (step (s.withFetchWord 32 w))

/-- An R-field text of 17 characters. -/
def text (s : String) : Vector Octet 17 :=
  Vector.ofFn fun i => ((s.toList.map fun c => BitVec.ofNat 8 c.toNat)[i.val]?).getD 0#8

/-! ### WellFormed refuses an ill-formed term of each check (30_encoding.md R64) -/

theorem test_wellFormed_refuses_ckld : (Instr.ckld 3 0x41#8).wellFormed = false := by decide
theorem test_wellFormed_refuses_bset : (Instr.bset .rq 8 true).wellFormed = false := by decide
theorem test_wellFormed_refuses_txtld : (Instr.txtld 17 0x30#8).wellFormed = false := by decide

/-! ### Words written out from 30_encoding.md R60 and R62 -/

theorem test_decode_crcclr : decode 0x01000000#32 = .ok .crcclr := by decide
theorem test_decode_crcb : decode 0x02000030#32 = .ok (.crcb 0x30#8) := by decide
theorem test_decode_crcenc : decode 0x03000000#32 = .ok .crcenc := by decide
theorem test_decode_ckld : decode 0x0402007C#32 = .ok (.ckld 2 0x7C#8) := by decide
theorem test_decode_crcchk : decode 0x05000000#32 = .ok .crcchk := by decide
theorem test_decode_nfset : decode 0x060000FF#32 = .ok (.nfset 0xFF#8) := by decide
theorem test_decode_mskld_rq : decode 0x070000C0#32 = .ok (.mskld .rq 0xC0#8) := by decide
theorem test_decode_mskld_cp : decode 0x07010000#32 = .ok (.mskld .cp 0x00#8) := by decide
theorem test_decode_bset_cp : decode 0x08030003#32 = .ok (.bset .cp 3 true) := by decide
theorem test_decode_bset_rq : decode 0x08070001#32 = .ok (.bset .rq 7 true) := by decide
theorem test_decode_packr : decode 0x09000000#32 = .ok .packr := by decide
theorem test_decode_txtld : decode 0x0A100030#32 = .ok (.txtld 16 0x30#8) := by decide
theorem test_decode_unpackr : decode 0x0B000000#32 = .ok .unpackr := by decide
theorem test_decode_errclr : decode 0x0C000000#32 = .ok .errclr := by decide
theorem test_decodeTableWord_masks : decodeTableWord 32 0x06000004 = some (.nfset 4#8) := by decide

/-- The illegal words of 95_test_vectors.md 2.4, 3.1, 3.2, 4.1 and 4.2. -/
theorem test_decode_illegal_words :
    ([0x00000000#32, 0x0D000000#32, 0xFF000000#32, 0x01000001#32, 0x01010000#32, 0x02010030#32,
      0x02000130#32, 0x02200030#32, 0x0A110030#32, 0x04030041#32, 0x06010004#32, 0x08080001#32,
      0x08000004#32, 0x07020000#32, 0x0C000001#32].map fun w => (decode w).toOption) =
    List.replicate 15 none := by decide

/-! ### Assembler (30_encoding.md R68, R69) -/

theorem test_assemble_read : assemble "READ 0x07".toList = some [.read 0x07#8] := by decide
theorem test_assemble_quoted_comma : assemble "CRCB ','".toList = some [.command 0x0200002C#32] := by decide
theorem test_assemble_refuses_wide_octet : assemble "NFSET 256".toList = none := by decide
theorem test_assemble_crcver : assemble "CRCVER \"0,\", \"Ko|\"".toList =
    some [.command 0x01000000#32, .command 0x02000030#32, .command 0x0200002C#32, .command 0x0400004B#32,
      .command 0x0401006F#32, .command 0x0402007C#32, .command 0x05000000#32] := by decide

/-! ### CRC family (95_test_vectors.md 2.1 to 2.4) -/

theorem test_crcByte_vectors :
    crcByte 0x0000#16 0x01#8 = 0xC0C1#16 ∧ crcByte 0x0000#16 0x80#8 = 0xA001#16 ∧
    crcByte 0x8000#16 0x00#8 = 0x0080#16 ∧ crcByte 0x1234#16 0x56#8 = 0xE993#16 := by decide

theorem test_crcByteSerial_vectors :
    crcByteSerial 0x0000#16 0x41#8 = 0x30C0#16 ∧ crcByteSerial 0xFFFF#16 0x00#8 = 0x40BF#16 := by decide

set_option maxRecDepth 4000 in
/-- The CRC-16/ARC check value (40_crc.md R90). -/
theorem test_crcOf_check_value :
    crcOf [0x31#8, 0x32#8, 0x33#8, 0x34#8, 0x35#8, 0x36#8, 0x37#8, 0x38#8, 0x39#8] = 0xBB3D#16 := by decide

theorem test_enc_vectors : enc 0x8000#16 = #v[0x48#8, 0x40#8, 0x40#8] ∧
    enc 0x0FC0#16 = #v[0x40#8, 0x7F#8, 0x40#8] ∧ enc 0x1234#16 = #v[0x41#8, 0x48#8, 0x74#8] ∧
    encInverse #v[0x41#8, 0x48#8, 0x74#8] = 0x1234#16 := by decide

/-- CRC 0xF0FB with its checksum loaded and M = 1, ERR = 0 (40_crc.md R80, R83). -/
def matched : State :=
  { State.reset with crc := 0xF0FB#16, ck := #v[0x4F#8, 0x43#8, 0x7B#8], status := 0x01#8 }

theorem test_crcclr : (after matched 0x01000000).map (fun t => (t.crc, t.m, t.ck)) =
    some (0x0000#16, false, #v[0x4F#8, 0x43#8, 0x7B#8]) := by decide
theorem test_crcb : (after State.reset 0x02000030).map (fun t => (t.crc, t.m)) = some (0x1400#16, false) := by
  decide
theorem test_crcb_clears_m : (after matched 0x02000000).map (fun t => (t.m, t.ck)) =
    some (false, #v[0x4F#8, 0x43#8, 0x7B#8]) := by decide
theorem test_crcenc : (after { State.reset with crc := 0xF0FB#16 } 0x03000000).map (·.ck) =
    some #v[0x4F#8, 0x43#8, 0x7B#8] := by decide
theorem test_ckld : (after matched 0x040100FF).map (fun t => (t.ck, t.m)) =
    some (#v[0x4F#8, 0xFF#8, 0x7B#8], false) := by decide
theorem test_ckld_index_3_is_illegal : (after matched 0x04030041).map (fun t => (t.ck, t.status)) =
    some (#v[0x4F#8, 0x43#8, 0x7B#8], 0x11#8) := by decide
theorem test_crcchk_mismatch : (after State.reset 0x05000000).map (·.status) = some 0x50#8 := by decide
theorem test_crcchk_match : (after { matched with status := 0x00#8 } 0x05000000).map (·.status) =
    some 0x01#8 := by decide

/-! ### Bit-packer family (95_test_vectors.md 3.1 to 3.4) -/

theorem test_nfset_8 : (after State.reset 0x06000008).map (fun t => (t.nf, t.err)) = some (8#4, 0#4) := by
  decide
theorem test_nfset_9 : (after { State.reset with nf := 4#4 } 0x06000009).map (fun t => (t.nf, t.err)) =
    some (4#4, 2#4) := by decide
theorem test_mskld : (after State.reset 0x070000C0).map (fun t => (t.rq, t.cp)) = some (0xC0#8, 0x00#8) := by
  decide
theorem test_bset_cp_3 : (after State.reset 0x08030003).map (fun t => (t.rq, t.cp)) =
    some (0x00#8, 0x10#8) := by decide
theorem test_bset_clears_position_0 : (after { State.reset with rq := 0xFF#8 } 0x08000000).map (·.rq) =
    some 0x7F#8 := by decide
theorem test_packr_nf_4 :
    (after { State.reset with rq := 0xFF#8, cp := 0xA5#8, nf := 4#4 } 0x09000000).map (·.txt) =
      some (text "11110000&10100000") := by decide
theorem test_packr_nf_8 :
    (after { State.reset with rq := 0xFF#8, cp := 0xA5#8, nf := 8#4 } 0x09000000).map (·.txt) =
      some (text "11111111&10100101") := by decide
theorem test_txtld : (after State.reset 0x0A100030).map (fun t => (t.txt[15], t.txt[16])) =
    some (0x00#8, 0x30#8) := by decide
theorem test_unpackr_ignores_padding :
    (after { State.reset with txt := text "1111XXXX&0000????", nf := 4#4 } 0x0B000000).map
      (fun t => (t.rq, t.cp, t.err)) = some (0xF0#8, 0x00#8, 0#4) := by decide
theorem test_unpackr_bad_digit_in_composite :
    (after { State.reset with txt := text "11110000&0020????", nf := 4#4, rq := 0xAA#8 } 0x0B000000).map
      (fun t => (t.rq, t.cp, t.err)) = some (0xAA#8, 0x00#8, 3#4) := by decide
theorem test_unpackr_separator_first :
    (after { State.reset with txt := text "1x11XXXX=0000????", nf := 4#4 } 0x0B000000).map (·.err) =
      some 4#4 := by decide

/-! ### Errors, READ, reset (95_test_vectors.md 4.1 to 4.3) -/

theorem test_illegal_word : (after { State.reset with crc := 0x1234#16 } 0x00000000).map
    (fun t => (t.crc, t.status)) = some (0x1234#16, 0x10#8) := by decide
theorem test_first_error_wins : (after { State.reset with status := 0x10#8 } 0x06000009).map (·.status) =
    some 0x10#8 := by decide
theorem test_errclr : (after { matched with status := 0x51#8 } 0x0C000000).map (·.status) = some 0x01#8 := by
  decide
theorem test_malformed_errclr : (after { State.reset with status := 0x30#8 } 0x0C000001).map (·.status) =
    some 0x30#8 := by decide
theorem test_read_crc : (nextOf (step { matched with pending := [.read 0x00#8] })).map (·.readData) =
    some [0xF0FB#16] := by decide
theorem test_read_ck_zero_extended : readPort matched 0x01#8 = 0x004F#16 := by decide
theorem test_read_last_text_octet :
    readPort { State.reset with txt := State.reset.txt.setIfInBounds 16 0x31#8 } 0x20#8 = 0x0031#16 := by decide
theorem test_read_status : readPort { State.reset with status := 0x50#8 } 0x07#8 = 0x0050#16 := by decide
theorem test_reset_clears : (nextOf (step { matched with pending := [.assertReset] })) = some State.reset := by
  decide

/-! ### Host rules (95_test_vectors.md E1, 3.5; 70_reset_and_hazards.md R175, R178) -/

/-- Parameters with the open orders empty. -/
def params : HostParams := { precipitationOrder := [], supervisorOrder := [], checksumRequired := true }

theorem test_maskOf_ptu :
    maskOf (fieldOrder params .ptu) (fun f => decide (f = "Pa") || decide (f = "Ta")) = 0xC0#8 := by decide
theorem test_maskOf_swapped : maskOf ["Ta", "Pa", "Tp", "Ua"] (fun f => decide (f = "Pa")) = 0x40#8 := by decide
set_option maxRecDepth 4000 in
theorem test_wireFrame : wireFrame params (frameContent 0x30#8 [0x58#8, 0x55#8] none) =
    [0x30#8, 0x58#8, 0x55#8, 0x4F#8, 0x43#8, 0x7B#8, 0x0D#8, 0x0A#8] := by decide
theorem test_removeTerminator : removeTerminator [0x30#8, 0x52#8, 0x0D#8, 0x0A#8] = [0x30#8, 0x52#8] ∧
    removeTerminator [0x30#8, 0x21#8] = [0x30#8] := by decide
theorem test_fieldValue_of_settingsToken : (fieldValue (settingsToken (text "11000000&00000000"))).map (·.length) =
    some 17 := by decide
theorem test_unpackScript_refuses_other_layouts : unpackScript params .ptu [0x31#8] = none := by decide

/-! ### Witnesses: the hypotheses of every statement can be met together -/

theorem witness_DecodeEncodeRoundTrip : WellFormed (.ckld 2 0x7C#8) ∧ WellFormed (.bset .cp 7 true) ∧
    WellFormed (.txtld 16 0x30#8) := by decide

theorem witness_EncodeDecodeRoundTrip : decode 0x0A100030#32 = .ok (.txtld 16 0x30#8) := by decide

/-- One word for each case of the rule, at the first value out of range. -/
theorem witness_IllegalWordsRecordIllegalCommand :
    [0x02200030#32, 0x02000130#32, 0x00000000#32, 0x0D000000#32, 0x01010000#32, 0x01000001#32,
      0x06010004#32, 0x04030041#32, 0x07020000#32, 0x08080001#32, 0x0A110030#32,
      0x08000004#32].Forall IllegalWord ∧
    (State.reset.withFetchWord 32 0x0D000000).pending = .command 0x0D000000#32 :: [] ∧
    State.reset.wasReset = true := by
  refine ⟨?_, by decide, by decide⟩
  simp only [List.Forall, IllegalWord]
  refine ⟨?_, ?_, ?_, ?_, ?_, ?_, ?_, ?_, ?_, ?_, ?_, ?_⟩ <;> decide

theorem witness_DecoderAgreesWithOpcodeTable :
    decode 0x08030003#32 = .ok (.bset .cp 3 true) ∧
    0x07010055#32 &&& (tableRow (.mskld .rq 0x00#8)).2.1 = (tableRow (.mskld .rq 0x00#8)).1 ∧
    ((0x07010055#32).extractLsb 20 16).toNat ≤ (tableRow (.mskld .rq 0x00#8)).2.2 := by decide

theorem witness_StepRunsTheDecodedCommand :
    (State.reset.withFetchWord 32 0x06000004).wasReset = true ∧
    (State.reset.withFetchWord 32 0x06000004).pending = .command 0x06000004#32 :: [] ∧
    decode 0x06000004#32 = .ok (.nfset 4#8) ∧ 0x06000004 < 2 ^ 32 ∧
    decodeTableWord 32 0x06000004 = some (.nfset 4#8) := by decide

theorem witness_EveryStepCompletes : State.reset.wasReset = true ∧ State.reset.pending = [] := by decide

theorem witness_ReadPortMap :
    (0x08 ≤ (0x08#8).toNat ∧ (0x08#8).toNat ≤ 0x0F) ∧ (0x08 ≤ (0x0F#8).toNat ∧ (0x0F#8).toNat ≤ 0x0F) ∧
    0x21 ≤ (0x21#8).toNat ∧ 0x21 ≤ (0xFF#8).toNat ∧
    readPort { State.reset with txt := State.reset.txt.setIfInBounds 0 0x31#8 } 0x10#8 = 0x0031#16 := by decide

/-- The reset state with actions issued. -/
def issued (actions : List HostAction) : State := { State.reset with pending := actions }

theorem witness_ReadHasNoSideEffect :
    (issued [.read 0x07#8]).wasReset = true ∧ (issued [.read 0x07#8]).pending = .read 0x07#8 :: [] ∧
    (issued [.read 0x21#8]).pending = .read 0x21#8 :: [] ∧ 0x21 ≤ (0x21#8).toNat ∧
    (issued [.read 0x00#8, .read 0x00#8]).pending = .read 0x00#8 :: .read 0x00#8 :: [] := by decide

theorem witness_ResetLeavesEveryRegisterZero :
    { matched with pending := [.assertReset, .read 0x00#8] }.pending = .assertReset :: [.read 0x00#8] := by
  decide

theorem witness_NothingRunsBeforeTheFirstReset :
    { State.reset with wasReset := false, pending := [.command 0x01000000#32] }.wasReset = false ∧
    { State.reset with wasReset := false, pending := [.command 0x01000000#32] }.pending =
      .command 0x01000000#32 :: [] ∧
    { State.reset with wasReset := false, pending := [.read 0x00#8] }.pending = .read 0x00#8 :: [] := by decide

theorem witness_ActionsArePerformedInIssueOrder :
    matched.wasReset = true ∧ Performs [.read 0x00#8, .assertReset] matched
      { State.reset with readData := [0xF0FB#16] } ∧ decode 0x06000004#32 = .ok (.nfset 4#8) :=
  ⟨by decide, fun _ => rfl, by decide⟩

theorem matched_inv : matched.Inv := ⟨by decide, by decide, by decide, by decide⟩

theorem witness_CrcencWritesTheThreeCharacters :
    matched.Inv ∧ matched.m = true ∧ State.reset.crc = 0x0000#16 ∧
    { State.reset with crc := 0xFFFF#16 }.crc = 0xFFFF#16 :=
  ⟨matched_inv, by decide, by decide, by decide⟩

theorem witness_CkldLoadsOneCharacter : 0 ≤ 2 ∧ 2 ≤ 2 ∧ 2 < 3 ∧ 0 ≠ 2 := by decide

theorem witness_CrcchkComparesTheChecksum :
    matched.ck = enc matched.crc ∧ State.reset.ck ≠ enc State.reset.crc := by decide

theorem witness_EncodingOfTheChecksum : enc 0x1234#16 = enc (0x1200#16 ||| 0x0034#16) := by decide

theorem witness_CommandSequencesComputeChecksumAndVerify : matched.wasReset = true := by decide

theorem witness_CrcIsLinear : ([0x30#8, 0x58#8] : List Octet).length = ([0x01#8, 0xFF#8] : List Octet).length := by
  decide

theorem witness_SingleOctetChangeIsDetected : (0x30#8 : Octet) ≠ 0x31#8 := by decide

/-- The line `0R1Ko|` (95_test_vectors.md P2). -/
theorem witness_HostAcceptsExactlyCheckedFrames :
    State.reset.wasReset = true ∧
    incomingScript [0x30#8, 0x52#8, 0x31#8, 0x4B#8, 0x6F#8, 0x7C#8] =
      some [.crcclr, .crcb 0x30#8, .crcb 0x52#8, .crcb 0x31#8, .ckld 0 0x4B#8, .ckld 1 0x6F#8,
        .ckld 2 0x7C#8, .crcchk] := by decide

theorem witness_NfsetBoundsTheFieldCount :
    (8#8).toNat ≤ 8 ∧ 8 < (9#8).toNat ∧
    { State.reset with txt := text "ZZZZZZZZ&ZZZZZZZZ" }.nf = 0#4 ∧
    txtAt (text "ZZZZZZZZ&ZZZZZZZZ") 8 = 0x26#8 ∧ { State.reset with nf := 8#4 }.nf = 8#4 := by decide

/-- NF = 4 and the source's text (95_test_vectors.md E1). -/
def ptuText : State := { State.reset with txt := text "11000000&00000000", nf := 4#4 }

/-- NF = 4 and a bad digit at `TXT[11]` (95_test_vectors.md 3.4). -/
def badText : State := { State.reset with txt := text "11110000&0020????", nf := 4#4 }

theorem ptuText_legal : UnpackLegal ptuText := by
  refine ⟨by decide, ?_⟩
  unfold BadDigit
  decide

theorem badText_bad : ∃ i, i < badText.nf.toNat ∧
    (BadDigit (txtAt badText.txt i) ∨ BadDigit (txtAt badText.txt (9 + i))) :=
  ⟨2, by decide, .inr (by unfold BadDigit; decide)⟩

theorem witness_MskldLoadsAMask :
    (0x07020000#32).extractLsb 31 24 = 0x07#8 ∧ 1 < ((0x07020000#32).extractLsb 20 16).toNat ∧
    (∀ i, i ≤ 7 → i < ptuText.nf.toNat → (0xC0#8).getLsbD (7 - i) = (0xCF#8).getLsbD (7 - i)) :=
  ⟨by decide, by decide, by decide⟩

theorem witness_BsetSetsOnePosition :
    ptuText.nf.toNat ≤ 4 ∧ ptuText.nf.toNat ≤ 7 ∧ UnpackLegal ptuText ∧
    0 ≤ 7 ∧ 7 ≤ 7 ∧ 7 < 8 ∧ (0x08000004#32).extractLsb 31 24 = 0x08#8 ∧ (0x08000004#32).extractLsb 7 2 ≠ 0 :=
  ⟨by decide, by decide, ptuText_legal, by decide, by decide, by decide, by decide, by decide⟩

theorem witness_TxtldLoadsOneOctet : 0 ≤ 16 ∧ 16 ≤ 16 ∧ 16 < 17 := by decide

theorem witness_UnpackrDecodesTheText :
    txtAt State.reset.txt 8 ≠ 0x26#8 ∧ txtAt badText.txt 8 = 0x26#8 ∧
    (∃ i, i < badText.nf.toNat ∧
      (BadDigit (txtAt badText.txt i) ∨ BadDigit (txtAt badText.txt (9 + i)))) ∧ UnpackLegal ptuText :=
  ⟨by decide, by decide, badText_bad, ptuText_legal⟩

/-- Both sides of the statement: an offender in the Requested half and one in the Composite half. -/
theorem witness_BadDigitIsTheLowestOffender :
    firstBadDigit badText.txt badText.nf.toNat = some 11 ∧
    firstBadDigit (text "1x1x0000&0000????") 4 = some 1 ∧ firstBadDigit ptuText.txt 4 = none := by decide

theorem witness_DigitStringSpellsTheMask : 0 ≤ 8 ∧ 8 ≤ 8 := by decide

/-- A PTU block whose masks the host built (95_test_vectors.md E1). -/
def ptuMasks : State := { State.reset with rq := 0xC0#8, cp := 0x00#8, nf := 4#4 }

theorem witness_PackUnpackRoundTrip :
    ptuMasks.wasReset = true ∧ ptuMasks.nf.toNat ≤ 8 ∧ { ptuMasks with nf := 8#4 }.nf.toNat ≤ 8 ∧
    paramsLegal params = true ∧ ptuMasks.nf.toNat = nfOf params .ptu ∧
    ptuMasks.rq = maskOf (fieldOrder params .ptu) (fun f => decide (f = "Pa") || decide (f = "Ta")) ∧
    ptuMasks.cp = maskOf (fieldOrder params .ptu) (fun _ => false) := by decide

theorem witness_MaskOfPlacesEachField :
    (fieldOrder params .ptu).length ≤ 8 ∧ ["a", "b", "c", "d", "e", "f", "g", "h"].length ≤ 8 ∧ 7 ≤ 7 := by
  decide

/-- The swapped fields' booleans differ under the first vector and are equal under the second
(95_test_vectors.md 3.5). -/
theorem witness_FieldOrderCarriesMeaning :
    1 < (fieldOrder params .ptu).length ∧ 0 < 1 ∧ (fieldOrder params .ptu).length ≤ 8 ∧
    (fun f => decide (f = "Pa")) "Pa" ≠ (fun f => decide (f = "Pa")) "Ta" ∧
    (fun f => decide (f = "Pa") || decide (f = "Ta")) "Pa" =
      (fun f => decide (f = "Pa") || decide (f = "Ta")) "Ta" := by decide

theorem witness_LanesAreIndependent :
    (3 < ptuText.nf.toNat ↔ 3 < ptuText.nf.toNat) ∧ UnpackLegal ptuText ∧
    ptuText.txt[3]? = ptuText.txt[3]? ∧ ptuText.txt[12]? = ptuText.txt[12]? :=
  ⟨Iff.rfl, ptuText_legal, rfl, rfl⟩

theorem witness_SettingsTravelBetweenBlocks :
    paramsLegal params = true ∧ matched.wasReset = true ∧ State.reset.wasReset = true := by decide

theorem witness_ErrclrClearsTheError :
    State.reset.err = 0#4 ∧ (issued [.command 0x0C000001#32]).wasReset = true ∧
    (issued [.command 0x0C000001#32]).pending = .command 0x0C000001#32 :: [] ∧
    (0x0C000001#32).extractLsb 31 24 = 0x0C#8 ∧ 0x0C000001#32 ≠ 0x0C000000#32 := by decide

/-- Each of the five ways to raise an error, a command that raises none, and a state that holds one. -/
theorem witness_ErrorsAreRecordedOnceAndDoNothingElse :
    Raises (.ckld 3 0x41#8) State.reset 1#4 ∧ Raises (.nfset 9#8) State.reset 2#4 ∧
    Raises .unpackr badText 3#4 ∧ Raises .unpackr State.reset 4#4 ∧ Raises .crcchk State.reset 5#4 ∧
    (∀ code, ¬ Raises .packr State.reset code) ∧
    exec .packr State.reset = .next (State.reset.setTxts (packText 0x00#8 0x00#8 0)) ∧
    { State.reset with status := 0x20#8 }.err ≠ 0#4 := by
  refine ⟨.illegalOperand _ _ (by decide), .badCount _ _ (by decide), ?_, .badSeparator _ (by decide),
    .invalidChecksum _ (by decide), ?_, rfl, by decide⟩
  · obtain ⟨i, hi, hb⟩ := badText_bad
    exact .badDigit _ i (by decide) hi hb
  · intro code h
    cases h with
    | illegalOperand _ _ h => exact h (by decide)

theorem witness_RegistersHaveOnlyTheirWriters :
    exec (.mskld .cp 0xC0#8) State.reset = .next (State.reset.setMask .cp 0xC0#8) ∧
    (State.reset.setMask .cp 0xC0#8).cp ≠ State.reset.cp ∧
    exec (.nfset 9#8) State.reset = .next (State.reset.setErr 2#4) ∧
    (State.reset.setErr 2#4).status ≠ State.reset.status := ⟨rfl, by decide, rfl, by decide⟩

theorem witness_OnlyCrcUnitCommandsTouchM :
    WellFormed .crcchk ∧ exec .crcchk matched = .next (matched.setM true) ∧ WellFormed (.ckld 2 0x7C#8) ∧
    exec (.ckld 2 0x7C#8) matched = .next ((matched.setCk 2 0x7C#8).setM false) ∧ WellFormed .errclr ∧
    exec .errclr matched = .next (clearError matched) :=
  ⟨by decide, by rfl, by decide, by rfl, by decide, by rfl⟩

theorem witness_CrcUnitAndPackerAreSeparate :
    inCrcFamily .crcchk = true ∧ matched.crc = { matched with nf := 4#4, rq := 0xC0#8 }.crc ∧
    matched.ck = { matched with nf := 4#4, rq := 0xC0#8 }.ck ∧
    matched.status = { matched with nf := 4#4, rq := 0xC0#8 }.status ∧
    inPackerFamily .unpackr = true ∧ ptuText.txt = { ptuText with crc := 0x1234#16, status := 0x01#8 }.txt ∧
    ptuText.err = { ptuText with crc := 0x1234#16, status := 0x01#8 }.err := by decide

theorem witness_IllFormedCommandsAreIllegal : ¬ WellFormed (.ckld 3 0x41#8) ∧
    ¬ WellFormed (.bset .rq 8 true) ∧ ¬ WellFormed (.txtld 17 0x30#8) := by decide

theorem witness_StepKeepsTheInvariant :
    matched.Inv ∧ nextOf (step (matched.withFetchWord 32 0x02000030)) =
      some ((matched.setCrc (crcByte 0xF0FB#16 0x30#8)).setM false) := ⟨matched_inv, by decide⟩

theorem witness_ResetEstablishesTheInvariant :
    (issued [.assertReset]).pending = .assertReset :: [] := by decide

theorem witness_PseudoInstructionsExpand :
    ([0x4B#8, 0x6F#8] : List Octet).length ≠ 3 ∧ (List.replicate 17 0x30#8).length ≤ 17 ∧
    17 < (List.replicate 18 0x30#8).length ∧ ([0x41#8] : List Octet)[0]? = some 0x41#8 := by decide

end Sys2Proof.Tests
end

section
/-! SUPPORT. What a command and a step can do, said once, and from it the statements about the
registers of 10_state.md: the invariant, who writes a register, the flag M, and reset. -/

namespace Sys2Proof.Machine

/-! ### What a command can do -/

/-- The completions of a command on `s`: one constructor for each way `exec` can end, with what held when
it ended so. An error is recorded and nothing else happens, but for CRCCHK's mismatch, which also writes
M (60_exceptions.md R142). -/
inductive ExecEffect (s : State) : Instr → State → Prop where
  | crcclr : ExecEffect s .crcclr ((s.setCrc crcInit).setM false)
  | crcb (b : Octet) : ExecEffect s (.crcb b) ((s.setCrc (crcByte s.crc b)).setM false)
  | crcenc : ExecEffect s .crcenc (s.setCks (enc s.crc))
  | ckld (k : Nat) (c : Octet) : k ≤ 2 → ExecEffect s (.ckld k c) ((s.setCk k c).setM false)
  | crcchkMatch : s.ck = enc s.crc → ExecEffect s .crcchk (s.setM true)
  | crcchkMismatch : s.ck ≠ enc s.crc → ExecEffect s .crcchk (record .invalidChecksum (s.setM false))
  | nfset (n : Octet) : n.toNat ≤ 8 → ExecEffect s (.nfset n) (s.setNf (n.extractLsb' 0 4))
  | mskld (r : MaskSel) (m : Octet) : ExecEffect s (.mskld r m) (s.setMask r m)
  | bset (r : MaskSel) (i : Nat) (b : Bool) : i ≤ 7 →
      ExecEffect s (.bset r i b) (s.setMask r (setBoolAt (s.mask r) i b))
  | packr : ExecEffect s .packr (s.setTxts (packText s.rq s.cp s.nf.toNat))
  | txtld (i : Nat) (c : Octet) : i ≤ 16 → ExecEffect s (.txtld i c) (s.setTxt i c)
  | unpackr : UnpackLegal s →
      ExecEffect s .unpackr (s.setMasks (unpackHalf s.txt 0 s.nf.toNat) (unpackHalf s.txt 9 s.nf.toNat))
  | errclr : ExecEffect s .errclr (s.setErr 0#4)
  | raised (i : Instr) (e : ErrorKind) : Raises i s e.code → i ≠ .crcchk → ExecEffect s i (record e s)

/-- UNPACKR ends in one of the three ways of 41_packer.md R106. -/
theorem execUnpackr_effect (s : State) : ∃ t, execUnpackr s = .next t ∧ ExecEffect s .unpackr t := by
  unfold execUnpackr
  by_cases hsep : txtAt s.txt 8 = charAmp
  · rw [if_neg (not_not.mpr hsep)]
    by_cases hbad : (firstBadDigit s.txt s.nf.toNat).isSome = true
    · obtain ⟨i, hi, hb⟩ := (firstBadDigit_isSome_iff _ _).mp hbad
      exact ⟨_, if_pos hbad, .raised _ .badDigit (.badDigit s i hsep hi hb) (by simp)⟩
    · refine ⟨_, if_neg hbad, .unpackr ⟨hsep, fun i hi => ?_⟩⟩
      rw [firstBadDigit_isSome_iff] at hbad
      exact ⟨fun h => hbad ⟨i, hi, .inl h⟩, fun h => hbad ⟨i, hi, .inr h⟩⟩
  · exact ⟨_, if_pos hsep, .raised _ .badSeparator (.badSeparator s hsep) (by simp)⟩

/-- Every command answers a next state, and one of its completions. -/
theorem exec_effect (i : Instr) (s : State) : ∃ t, exec i s = .next t ∧ ExecEffect s i t := by
  cases i with
  | crcclr => exact ⟨_, rfl, .crcclr⟩
  | crcb b => exact ⟨_, rfl, .crcb b⟩
  | crcenc => exact ⟨_, rfl, .crcenc⟩
  | ckld k c =>
    by_cases hk : k ≤ 2
    · exact ⟨_, if_pos hk, .ckld k c hk⟩
    · exact ⟨_, if_neg hk,
        .raised _ .illegalCommand (.illegalOperand _ s (by simpa [Instr.wellFormed] using hk)) (by simp)⟩
  | crcchk =>
    by_cases h : checksumMatches s = true
    · exact ⟨_, if_pos h, .crcchkMatch ((checksumMatches_iff s).mp h)⟩
    · exact ⟨_, if_neg h, .crcchkMismatch (mt (checksumMatches_iff s).mpr h)⟩
  | nfset n =>
    by_cases hn : 8 < n.toNat
    · exact ⟨_, if_pos hn, .raised _ .badCount (.badCount n s hn) (by simp)⟩
    · exact ⟨_, if_neg hn, .nfset n (Nat.le_of_not_lt hn)⟩
  | mskld r m => exact ⟨_, rfl, .mskld r m⟩
  | bset r i b =>
    by_cases hi : i ≤ 7
    · exact ⟨_, if_pos hi, .bset r i b hi⟩
    · exact ⟨_, if_neg hi,
        .raised _ .illegalCommand (.illegalOperand _ s (by simpa [Instr.wellFormed] using hi)) (by simp)⟩
  | packr => exact ⟨_, rfl, .packr⟩
  | txtld i c =>
    by_cases hi : i ≤ 16
    · exact ⟨_, if_pos hi, .txtld i c hi⟩
    · exact ⟨_, if_neg hi,
        .raised _ .illegalCommand (.illegalOperand _ s (by simpa [Instr.wellFormed] using hi)) (by simp)⟩
  | unpackr => exact execUnpackr_effect s
  | errclr => exact ⟨_, rfl, .errclr⟩

/-- A state that a command answers is one of its completions. -/
theorem effect_of_exec {i : Instr} {s t : State} (h : exec i s = .next t) : ExecEffect s i t := by
  obtain ⟨u, hu, he⟩ := exec_effect i s
  rw [h] at hu
  cases hu
  exact he

/-- A command whose index is in range raises an error only if it is NFSET, UNPACKR or CRCCHK
(60_exceptions.md R145). -/
theorem raises_of_wellFormed {i : Instr} {s : State} {code : BitVec 4} (h : Raises i s code)
    (hw : WellFormed i) : (∃ n, i = .nfset n) ∨ i = .unpackr ∨ i = .crcchk := by
  cases h with
  | illegalOperand _ _ hi => exact absurd hw hi
  | badCount n _ _ => exact .inl ⟨n, rfl⟩
  | badSeparator => exact .inr (.inl rfl)
  | badDigit => exact .inr (.inl rfl)
  | invalidChecksum => exact .inr (.inr rfl)

/-! ### What a step can do -/

/-- The ways a step can answer a next state: the host's oldest action is taken and performed in full
(20_memory.md R47), and a command or READ only by a block that has been reset. -/
inductive StepEffect (s : State) : State → Prop where
  | idle : s.pending = [] → StepEffect s s
  | assertReset (rest : List HostAction) : s.pending = .assertReset :: rest →
      StepEffect s (applyReset (withPending s rest))
  | read (a : Address) (rest : List HostAction) : s.wasReset = true → s.pending = .read a :: rest →
      StepEffect s (performRead a (withPending s rest))
  | command (w : CommandWord) (i : Instr) (rest : List HostAction) (t : State) : s.wasReset = true →
      s.pending = .command w :: rest → decode w = .ok i → ExecEffect (withPending s rest) i t →
      StepEffect s t
  | illegal (w : CommandWord) (why : IllegalReason) (rest : List HostAction) : s.wasReset = true →
      s.pending = .command w :: rest → decode w = .illegal why →
      StepEffect s (record .illegalCommand (withPending s rest))

theorem step_of_pending_nil {s : State} (h : s.pending = []) : step s = .next s := by
  rw [step, performPending, h]

theorem step_of_pending_cons {s : State} {act : HostAction} {rest : List HostAction}
    (h : s.pending = act :: rest) : step s = performAction exec act (withPending s rest) := by
  rw [step, performPending, h]

/-- A step that takes the reset input resets the registers, of a block reset before or not. -/
theorem step_assertReset {s : State} {rest : List HostAction} (h : s.pending = .assertReset :: rest) :
    step s = .next (applyReset (withPending s rest)) := by
  rw [step_of_pending_cons h, performAction]

theorem step_read {s : State} {a : Address} {rest : List HostAction} (h : s.pending = .read a :: rest) :
    step s = if s.wasReset then .next (performRead a (withPending s rest)) else .refused .beforeFirstReset := by
  rw [step_of_pending_cons h, performAction]

theorem step_command {s : State} {w : CommandWord} {rest : List HostAction}
    (h : s.pending = .command w :: rest) :
    step s = if s.wasReset then performCommand exec w (withPending s rest)
      else .refused .beforeFirstReset := by
  rw [step_of_pending_cons h, performAction]

/-- A state that a step answers comes about in one of those ways. -/
theorem effect_of_step {s t : State} (h : step s = .next t) : StepEffect s t := by
  match hp : s.pending with
  | [] =>
    rw [step_of_pending_nil hp] at h
    cases h
    exact .idle hp
  | .assertReset :: rest =>
    rw [step_assertReset hp] at h
    cases h
    exact .assertReset rest hp
  | .read a :: rest =>
    rw [step_read hp] at h
    split at h
    next hr => cases h; exact .read a rest hr hp
    next => cases h
  | .command w :: rest =>
    rw [step_command hp] at h
    split at h
    next hr =>
      rw [performCommand] at h
      split at h
      next i hd => exact .command w i rest t hr hp hd (effect_of_exec h)
      next why hd => cases h; exact .illegal w why rest hr hp hd
    next => cases h

/-! ### The invariant -/

/-- The invariant speaks of CRC, CK, NF and STATUS alone. -/
theorem State.Inv.congr {s t : State} (h : s.Inv) (hcrc : t.crc = s.crc) (hck : t.ck = s.ck)
    (hnf : t.nf = s.nf) (hst : t.status = s.status) : t.Inv where
  fieldCount := hnf ▸ h.fieldCount
  reserved := hst ▸ h.reserved
  errorCode := State.err_congr hst ▸ h.errorCode
  freshMatch hm := by
    rw [hck, hcrc]
    exact h.freshMatch (State.m_congr hst ▸ hm)

/-- With M cleared the invariant asks nothing of CRC and CK (10_state.md R29). -/
theorem State.Inv.setM_false {s : State} (h : s.Inv) (crc : Crc16) (ck : Vector Octet 3) :
    (State.setM { s with crc := crc, ck := ck } false).Inv where
  fieldCount := h.fieldCount
  reserved := by simpa using h.reserved
  errorCode := by simpa using h.errorCode
  freshMatch hm := by simp at hm

theorem State.Inv.setErr {s : State} (h : s.Inv) {e : BitVec 4} (he : e.toNat ≤ 5) : (s.setErr e).Inv where
  fieldCount := h.fieldCount
  reserved := by simpa using h.reserved
  errorCode := by simpa using he
  freshMatch hm := h.freshMatch (by simpa using hm)

/-- Every error has a code from 1 to 5 (60_exceptions.md R140). -/
theorem ErrorKind.code_le (e : ErrorKind) : e.code.toNat ≤ 5 := by
  cases e <;> decide

theorem State.Inv.record {s : State} (h : s.Inv) (e : ErrorKind) : (record e s).Inv := by
  unfold Machine.record
  split
  · exact h.setErr e.code_le
  · exact h

/-- A count of at most 8 fits the 4 bits of NF. -/
theorem toNat_fieldCount {n : Octet} (h : n.toNat ≤ 8) : (n.extractLsb' 0 4).toNat = n.toNat := by
  rw [BitVec.extractLsb'_toNat, Nat.shiftRight_zero]
  exact Nat.mod_eq_of_lt (by omega)

/-- Every command keeps the invariant. CRCENC keeps M, and makes CK the encoding of CRC; CRCCHK sets M only
where it found CK to be that encoding; every other command that writes CRC or CK clears M. -/
theorem ExecEffect.inv {i : Instr} {s t : State} (he : ExecEffect s i t) (h : s.Inv) : t.Inv := by
  cases he with
  | crcclr => exact h.setM_false _ s.ck
  | crcb b => exact h.setM_false _ s.ck
  | crcenc => exact ⟨h.fieldCount, h.reserved, h.errorCode, fun _ => rfl⟩
  | ckld k c _ => exact h.setM_false s.crc _
  | crcchkMatch heq =>
    exact ⟨h.fieldCount, by simpa using h.reserved, by simpa using h.errorCode, fun _ => heq⟩
  | crcchkMismatch _ => exact (h.setM_false s.crc s.ck).record _
  | nfset n hn => exact ⟨(toNat_fieldCount hn).trans_le hn, h.reserved, h.errorCode, h.freshMatch⟩
  | mskld r m => apply h.congr <;> simp
  | bset r i b _ => apply h.congr <;> simp
  | packr => exact h.congr rfl rfl rfl rfl
  | txtld i c _ => exact h.congr rfl rfl rfl rfl
  | unpackr _ => exact h.congr rfl rfl rfl rfl
  | errclr => exact h.setErr (by decide)
  | raised _ e _ _ => exact h.record e

theorem State.reset_m : State.reset.m = false := by decide

theorem State.reset_err : State.reset.err = 0#4 := by decide

theorem State.reset_inv : State.reset.Inv :=
  ⟨by decide, by decide, by decide, by decide⟩

/-- Reset establishes the invariant, whatever the registers held (10_state.md R31). -/
theorem applyReset_inv (s : State) : (applyReset s).Inv :=
  State.reset_inv.congr rfl rfl rfl rfl

theorem StepEffect.inv {s t : State} (he : StepEffect s t) (h : s.Inv) : t.Inv := by
  have taken (rest : List HostAction) : (withPending s rest).Inv := h.congr rfl rfl rfl rfl
  cases he with
  | idle _ => exact h
  | assertReset rest _ => exact applyReset_inv _
  | read a rest _ _ => exact (taken rest).congr rfl rfl rfl rfl
  | command w i rest _ _ _ _ hi => exact hi.inv (taken rest)
  | illegal w why rest _ _ _ => exact (taken rest).record _

/-- Settles O44: a step is idle, a reset, a READ or a command, and each keeps the invariant. -/
theorem stepKeepsTheInvariant : Obligations.StepKeepsTheInvariant :=
  fun _ _ h hstep => (effect_of_step hstep).inv h

/-- Settles O45: what reset leaves does not depend on the state it is asserted in. -/
theorem resetEstablishesTheInvariant : Obligations.ResetEstablishesTheInvariant :=
  ⟨State.reset_inv, fun _ _ hp => ⟨_, step_assertReset hp, applyReset_inv _⟩⟩

/-! ### Who writes a register (10_state.md R20) -/

section Writers

variable {i : Instr} {s t : State}

theorem ExecEffect.crc_writer (he : ExecEffect s i t) (h : t.crc ≠ s.crc) :
    i = .crcclr ∨ ∃ b, i = .crcb b := by
  cases he <;> simp at h ⊢

theorem ExecEffect.ck_writer (he : ExecEffect s i t) (h : t.ck ≠ s.ck) :
    i = .crcenc ∨ ∃ k c, i = .ckld k c := by
  cases he <;> simp at h ⊢

theorem ExecEffect.nf_writer (he : ExecEffect s i t) (h : t.nf ≠ s.nf) : ∃ n, i = .nfset n := by
  cases he <;> simp at h ⊢

theorem ExecEffect.txt_writer (he : ExecEffect s i t) (h : t.txt ≠ s.txt) :
    i = .packr ∨ ∃ p c, i = .txtld p c := by
  cases he <;> simp at h ⊢

theorem ExecEffect.rq_writer (he : ExecEffect s i t) (h : t.rq ≠ s.rq) :
    (∃ m, i = .mskld .rq m) ∨ (∃ p b, i = .bset .rq p b) ∨ i = .unpackr := by
  cases he with
  | mskld r m => cases r <;> simp at h ⊢
  | bset r p b _ => cases r <;> simp at h ⊢
  | _ => simp at h ⊢

theorem ExecEffect.cp_writer (he : ExecEffect s i t) (h : t.cp ≠ s.cp) :
    (∃ m, i = .mskld .cp m) ∨ (∃ p b, i = .bset .cp p b) ∨ i = .unpackr := by
  cases he with
  | mskld r m => cases r <;> simp at h ⊢
  | bset r p b _ => cases r <;> simp at h ⊢
  | _ => simp at h ⊢

theorem ExecEffect.status_writer (he : ExecEffect s i t) (h : t.status ≠ s.status) :
    i = .crcclr ∨ (∃ b, i = .crcb b) ∨ (∃ k c, i = .ckld k c) ∨ i = .crcchk ∨ i = .errclr ∨
      ∃ code, Raises i s code := by
  cases he with
  | raised _ e hr _ =>
    iterate 5 right
    exact ⟨e.code, hr⟩
  | _ => simp at h ⊢

theorem ExecEffect.m_writer (he : ExecEffect s i t) (h : t.m ≠ s.m) :
    i = .crcchk ∨ i = .crcclr ∨ (∃ b, i = .crcb b) ∨ ∃ k c, i = .ckld k c := by
  cases he <;> simp at h ⊢

theorem ExecEffect.reserved (he : ExecEffect s i t) :
    statusReserved t.status = statusReserved s.status := by
  cases he <;> simp

theorem ExecEffect.sameHostSide (he : ExecEffect s i t) : SameHostSide s t := by
  cases he <;> simp [SameHostSide]

end Writers

/-- Settles O40, register by register. -/
theorem registersHaveOnlyTheirWriters : Obligations.RegistersHaveOnlyTheirWriters := by
  intro i s t h
  have he := effect_of_exec h
  exact ⟨he.crc_writer, he.ck_writer, he.rq_writer, he.cp_writer, he.nf_writer, he.txt_writer,
    he.status_writer, he.reserved, he.sameHostSide⟩

/-! ### The flag M (10_state.md R29) -/

/-- CRCCHK writes the outcome of its comparison to M, also where it records an error (40_crc.md R85). -/
theorem ExecEffect.m_crcchk {s t : State} (he : ExecEffect s .crcchk t) : t.m = decide (s.ck = enc s.crc) := by
  cases he with
  | crcchkMatch h => simp [h]
  | crcchkMismatch h => simp [h]
  | raised _ _ _ hi => exact absurd rfl hi

/-- The commands that change what CRCCHK compares clear M, unless the index of CKLD is out of range. -/
theorem ExecEffect.m_cleared {i : Instr} {s t : State} (he : ExecEffect s i t) (hw : WellFormed i)
    (hi : i = .crcclr ∨ (∃ b, i = .crcb b) ∨ ∃ k c, i = .ckld k c) : t.m = false := by
  cases he with
  | crcclr => exact State.m_setM _ _
  | crcb b => exact State.m_setM _ _
  | ckld k c _ => exact State.m_setM _ _
  | raised _ e hr hchk => rcases raises_of_wellFormed hr hw with ⟨n, rfl⟩ | rfl | rfl <;> simp at hi hchk
  | _ => simp at hi

/-! ### No command reads M -/

/-- STATUS with M written twice holds the later M. -/
theorem statusWithM_withM (st : Octet) (x y : Bool) : statusWithM (statusWithM st x) y = statusWithM st y :=
  status_ext (by simp) (by simp) (by simp)

/-- The writes of M and of ERR do not disturb each other. -/
theorem statusWithErr_withM (st : Octet) (e : BitVec 4) (m : Bool) :
    statusWithErr (statusWithM st m) e = statusWithM (statusWithErr st e) m :=
  status_ext (by simp) (by simp) (by simp)

@[simp] theorem State.setM_setM (s : State) (x y : Bool) : (s.setM x).setM y = s.setM y := by
  simp [State.setM, statusWithM_withM]

section SetMCommutes

variable (s : State) (x : Bool)

@[simp] theorem State.setCrc_setM (c : Crc16) : (s.setM x).setCrc c = (s.setCrc c).setM x := rfl
@[simp] theorem State.setCks_setM (v : Vector Octet 3) : (s.setM x).setCks v = (s.setCks v).setM x := rfl
@[simp] theorem State.setCk_setM (k : Nat) (c : Octet) : (s.setM x).setCk k c = (s.setCk k c).setM x := rfl
@[simp] theorem State.setNf_setM (n : BitVec 4) : (s.setM x).setNf n = (s.setNf n).setM x := rfl
@[simp] theorem State.setTxts_setM (v : Vector Octet 17) : (s.setM x).setTxts v = (s.setTxts v).setM x := rfl
@[simp] theorem State.setTxt_setM (i : Nat) (c : Octet) : (s.setM x).setTxt i c = (s.setTxt i c).setM x := rfl
@[simp] theorem State.setMasks_setM (a b : Octet) : (s.setM x).setMasks a b = (s.setMasks a b).setM x := rfl
@[simp] theorem State.setMask_setM (r : MaskSel) (m : Octet) :
    (s.setM x).setMask r m = (s.setMask r m).setM x := by
  cases r <;> rfl
@[simp] theorem State.mask_setM (r : MaskSel) : (s.setM x).mask r = s.mask r := by
  cases r <;> rfl
@[simp] theorem State.setErr_setM (e : BitVec 4) : (s.setM x).setErr e = (s.setErr e).setM x := by
  simp [State.setM, State.setErr, statusWithErr_withM]
@[simp] theorem record_setM (e : ErrorKind) : record e (s.setM x) = (record e s).setM x := by
  unfold record
  rw [State.err_setM, State.setErr_setM]
  split <;> rfl
@[simp] theorem checksumMatches_setM : checksumMatches (s.setM x) = checksumMatches s := rfl

end SetMCommutes

@[simp] theorem mapNext_next (f : State → State) (t : State) : mapNext f (.next t) = .next (f t) := rfl

theorem mapNext_ite (f : State → State) (p : Prop) [Decidable p]
    (a b : Host.Outcome State Fault Refusal) :
    mapNext f (if p then a else b) = if p then mapNext f a else mapNext f b := apply_ite ..

/-- The outcome of a command, but for M, does not depend on the M it finds. -/
theorem exec_setM (i : Instr) (s : State) (x : Bool) :
    mapNext (·.setM false) (exec i (s.setM x)) = mapNext (·.setM false) (exec i s) := by
  cases i with
  | crcclr => simp [exec, execCrcclr]
  | crcb b => simp [exec, execCrcb]
  | crcenc => simp [exec, execCrcenc]
  | ckld k c => simp [exec, execCkld, raiseError, mapNext_ite]
  | crcchk => simp [exec, execCrcchk, raiseError]
  | nfset n => simp [exec, execNfset, raiseError, mapNext_ite]
  | mskld r m => simp [exec, execMskld]
  | bset r i b => simp [exec, execBset, raiseError, mapNext_ite]
  | packr => simp [exec, execPackr]
  | txtld i c => simp [exec, execTxtld, raiseError, mapNext_ite]
  | unpackr => simp [exec, execUnpackr, raiseError, mapNext_ite]
  | errclr => simp [exec, execErrclr, clearError]

/-- Settles O41: what each completion of a command does to M, and that no command reads M. -/
theorem onlyCrcUnitCommandsTouchM : Obligations.OnlyCrcUnitCommandsTouchM := by
  refine ⟨fun i s t hw h => ?_, fun i s x => ?_, State.reset_m⟩
  · have he := effect_of_exec h
    refine ⟨?_, he.m_cleared hw, fun hchk hclr hcrcb hckld => ?_⟩
    · rintro rfl
      exact he.m_crcchk
    · by_contra hm
      rcases he.m_writer hm with hi | hi | ⟨b, hi⟩ | ⟨k, c, hi⟩
      · exact hchk hi
      · exact hclr hi
      · exact hcrcb b hi
      · exact hckld k c hi
  · obtain ⟨t, ht, -⟩ := exec_effect i s
    obtain ⟨u, hu, -⟩ := exec_effect i (s.setM x)
    have hsame := exec_setM i s x
    rw [ht, hu, mapNext_next, mapNext_next] at hsame
    exact ⟨t, u, ht, hu, (Host.Outcome.next.inj hsame).symm⟩

/-! ### Reset and the time before it -/

theorem State.reset_mismatch : State.reset.ck ≠ enc State.reset.crc := by decide

/-- Settles O10: reset leaves the values of State.reset, in which CK is not the encoding of CRC. -/
theorem resetLeavesEveryRegisterZero : Obligations.ResetLeavesEveryRegisterZero := by
  unfold Obligations.ResetLeavesEveryRegisterZero
  intro isReset
  have holds (s : State) : isReset (applyReset s) := by
    obtain ⟨u, hu, he⟩ := exec_effect .crcchk (applyReset s)
    refine ⟨rfl, rfl, rfl, rfl, rfl, rfl, rfl, rfl, State.reset_m, State.reset_err, fun i hi => ?_, u, hu, ?_⟩
    · exact Vector.getElem_replicate hi
    · rw [he.m_crcchk]
      exact decide_eq_false State.reset_mismatch
  exact ⟨holds State.reset, fun s rest hp => ⟨_, step_assertReset hp, holds _, rfl, rfl, rfl⟩⟩

/-- Settles O11: a step looks at the reset flag before it performs a command or a READ. -/
theorem nothingRunsBeforeTheFirstReset : Obligations.NothingRunsBeforeTheFirstReset := by
  refine ⟨fun s rest hr => ⟨fun w hp => ?_, fun a hp => ?_⟩, rfl, fun rest => step_assertReset rfl⟩
  · simp [step_command hp, hr]
  · simp [step_read hp, hr]

end Sys2Proof.Machine
end

section
/-! SUPPORT. `mask_of` of a field order (41_packer.md R103), position by position. -/

namespace Sys2Proof.Machine

/-- One field more sets the bit of its own position, if its boolean is true. -/
theorem maskOf_concat (order : List FieldName) (f : FieldName) (v : FieldName → Bool) :
    maskOf (order ++ [f]) v =
      maskOf order v ||| if v f then 1#8 <<< (7 - order.length) else 0x00#8 := by
  simp [maskOf, List.zipIdx_append]

/-- The bit of position `n`, seen at position `i`. -/
theorem positionBit_getLsbD {n i : Nat} (hn : n < 8) (hi : i ≤ 7) (b : Bool) :
    (if b then 1#8 <<< (7 - n) else 0x00#8).getLsbD (7 - i) = (decide (i = n) && b) := by
  cases b
  · simp
  · interval_cases n <;> interval_cases i <;> rfl

/-- Settles O34, by induction on the field order from its last field. -/
theorem maskOfPlacesEachField : Obligations.MaskOfPlacesEachField := by
  intro order v
  induction order using List.reverseRecOn with
  | nil => simp [maskOf]
  | append_singleton order f ih =>
    intro hlen i hi
    rw [List.length_append, List.length_singleton] at hlen
    rw [maskOf_concat, BitVec.getLsbD_or, ih (by omega) i hi, positionBit_getLsbD (by omega) hi]
    rcases Nat.lt_trichotomy i order.length with h | rfl | h
    · simp [List.getElem?_append_left h, h.ne]
    · simp
    · simp [h.ne', h.le, h]

end Sys2Proof.Machine
end

section
/-! SUPPORT. The ports of 20_memory.md: what one action of the host does to a block that has been reset,
how scripts of actions chain, and from these the statements about steps and READs. -/

namespace Sys2Proof.Machine

/-! ### Runs and scripts -/

theorem run_one (s : State) : Host.Core.run core 1 s = step s := by
  simp only [Host.Core.run]
  show _ = core.step s
  cases core.step s <;> rfl

/-- A block with a script at the head of its pending actions runs it. -/
theorem Performs.run_eq {script rest : List HostAction} {s t : State} (h : Performs script s t)
    (hp : s.pending = script ++ rest) :
    Host.Core.run core script.length s = .next (withPending t rest) := by
  rw [← h rest, ← hp]

/-- A step takes and performs the oldest action (20_memory.md R47). -/
theorem Performs.step_eq {act : HostAction} {rest : List HostAction} {s t : State}
    (h : Performs [act] s t) (hp : s.pending = act :: rest) : step s = .next (withPending t rest) := by
  rw [← run_one]
  exact h.run_eq hp

theorem performs_singleton {act : HostAction} {s t : State}
    (h : ∀ rest, performAction exec act (withPending s rest) = .next (withPending t rest)) :
    Performs [act] s t := fun rest => (run_one _).trans (h rest)

theorem performs_nil (s : State) : Performs [] s s := fun _ => rfl

/-- A script starts from the state that the one issued before it has left (20_memory.md R49). -/
theorem Performs.append {first second : List HostAction} {s t u : State} (h₁ : Performs first s t)
    (h₂ : Performs second t u) : Performs (first ++ second) s u := by
  intro rest
  rw [List.length_append, run_add, List.append_assoc, h₁]
  exact h₂ rest

/-! ### One action of the host -/

theorem performs_assertReset (s : State) : Performs [.assertReset] s (applyReset s) :=
  performs_singleton fun _ => rfl

theorem performs_read {s : State} (hr : s.wasReset = true) (a : Address) :
    Performs [.read a] s (performRead a s) :=
  performs_singleton fun _ => if_pos hr

theorem performCommand_of_decode_ok {w : CommandWord} {i : Instr} (hd : decode w = .ok i) (s : State) :
    performCommand exec w s = exec i s := by
  rw [performCommand, hd]

theorem performCommand_of_decode_illegal {w : CommandWord} {why : IllegalReason}
    (hd : decode w = .illegal why) (s : State) :
    performCommand exec w s = .next (record .illegalCommand s) := by
  rw [performCommand, hd, raiseError]

/-- What a command word does to a reset block is `performCommand`, whatever is issued after it. -/
theorem performs_of_performCommand {s t : State} {w : CommandWord} (hr : s.wasReset = true)
    (h : ∀ rest, performCommand exec w (withPending s rest) = .next (withPending t rest)) :
    Performs [.command w] s t :=
  performs_singleton fun rest => (if_pos hr).trans (h rest)

theorem performs_command {s t : State} {w : CommandWord} {i : Instr} (hr : s.wasReset = true)
    (hd : decode w = .ok i) (he : exec i s = .next t) : Performs [.command w] s t :=
  performs_of_performCommand hr fun rest => by
    rw [performCommand_of_decode_ok hd, exec_withPending, he, mapNext_next]

theorem performs_illegal {s : State} {w : CommandWord} {why : IllegalReason} (hr : s.wasReset = true)
    (hd : decode w = .illegal why) : Performs [.command w] s (record .illegalCommand s) :=
  performs_of_performCommand hr fun rest => by
    rw [performCommand_of_decode_illegal hd, record_withPending]

/-- No action stops a block that has been reset, or takes back a datum that was read. -/
theorem exists_performs_singleton {s : State} (hr : s.wasReset = true) (act : HostAction) :
    ∃ t, Performs [act] s t ∧ t.wasReset = true ∧ s.readData <+: t.readData := by
  cases act with
  | assertReset => exact ⟨_, performs_assertReset s, rfl, List.prefix_refl _⟩
  | read a => exact ⟨_, performs_read hr a, hr, List.prefix_append _ _⟩
  | command w =>
    match hd : decode w with
    | .ok i =>
      obtain ⟨t, ht, he⟩ := exec_effect i s
      obtain ⟨-, hread, hreset⟩ := he.sameHostSide
      exact ⟨t, performs_command hr hd ht, hreset.trans hr, hread ▸ List.prefix_refl _⟩
    | .illegal why =>
      exact ⟨_, performs_illegal hr hd, by rw [record_wasReset, hr], by simp⟩

/-- No script of actions stops such a block either. -/
theorem exists_performs {s : State} (hr : s.wasReset = true) (script : List HostAction) :
    ∃ t, Performs script s t ∧ t.wasReset = true ∧ s.readData <+: t.readData := by
  induction script generalizing s with
  | nil => exact ⟨s, performs_nil s, hr, List.prefix_refl _⟩
  | cons act script ih =>
    obtain ⟨t, hact, ht, hst⟩ := exists_performs_singleton hr act
    obtain ⟨u, hscript, hu, htu⟩ := ih ht
    exact ⟨u, hact.append hscript, hu, hst.trans htu⟩

/-! ### The statements -/

/-- Settles O7: a command ends in one of its completions, each of which leaves the host's side alone; a step
is idle or performs the oldest action. -/
theorem everyStepCompletes : Obligations.EveryStepCompletes := by
  refine ⟨fun i s => ?_, fun s hr => ?_⟩
  · obtain ⟨t, ht, he⟩ := exec_effect i s
    exact ⟨t, ht, he.sameHostSide⟩
  · match hp : s.pending with
    | [] => exact ⟨s, step_of_pending_nil hp, hr, hp, fun _ => rfl⟩
    | act :: rest =>
      obtain ⟨t, hact, ht, -⟩ := exists_performs_singleton hr act
      exact ⟨_, hact.step_eq hp, ht, rfl, fun hnil => nomatch hnil⟩

/-- A READ changes what no address reads (20_memory.md R43). -/
@[simp] theorem readPort_performRead (a b : Address) (s : State) :
    readPort (performRead a s) b = readPort s b := rfl

/-- Settles O9: a READ writes the list of data read, which no address reads. -/
theorem readHasNoSideEffect : Obligations.ReadHasNoSideEffect := by
  refine ⟨fun s a rest hr hp => ?_, fun s a rest hr hp => ?_⟩
  · refine ⟨_, (performs_read hr a).step_eq hp, fun b _ => readPort_performRead a b s, rfl, hr,
      performRead_readData a s, fun hreserved => ?_⟩
    rw [← readPort_reserved s a hreserved]
    exact performRead_readData a s
  · have htwo : Performs [.read a, .read a] s (performRead a (performRead a s)) :=
      (performs_read hr a).append (performs_read (s := performRead a s) hr a)
    exact ⟨_, htwo.run_eq hp, by simp⟩

/-- Settles O12: scripts chain through the state between them, and a READ or a command is a script of
one action. -/
theorem actionsArePerformedInIssueOrder : Obligations.ActionsArePerformedInIssueOrder := by
  intro s first hr
  obtain ⟨t, hfirst, ht, hread⟩ := exists_performs hr first
  refine ⟨t, hfirst, ht, hread, fun second => ?_, fun w i hd => ?_, fun a second => ?_⟩
  · obtain ⟨u, hsecond, -, htu⟩ := exists_performs ht second
    exact ⟨u, hsecond, hfirst.append hsecond, htu⟩
  · obtain ⟨u, hu, -⟩ := exec_effect i t
    exact ⟨u, hu, hfirst.append (performs_command ht hd hu)⟩
  · obtain ⟨u, hsecond, -, htu⟩ := exists_performs (s := performRead a t) ht second
    exact ⟨u, hfirst.append ((performs_read ht a).append hsecond), htu⟩

theorem decode_of_decodeTableWord {nbits w : Nat} {i : Instr} (h : decodeTableWord nbits w = some i) :
    decode (tableWord nbits w) = .ok i := by
  rw [decodeTableWord] at h
  match hd : decode (tableWord nbits w) with
  | .ok j =>
    rw [hd] at h
    rw [Option.some.inj h]
  | .illegal why =>
    rw [hd] at h
    exact nomatch h

theorem step_of_decode_ok {s : State} {w : CommandWord} {rest : List HostAction} {i : Instr}
    (hr : s.wasReset = true) (hp : s.pending = .command w :: rest) (hd : decode w = .ok i) :
    step s = exec i (withPending s rest) := by
  rw [step_command hp, if_pos hr, performCommand_of_decode_ok hd]

/-- Settles O6: the word that `withFetchWord` issues is the oldest one of a reset block. -/
theorem stepRunsTheDecodedCommand : Obligations.StepRunsTheDecodedCommand :=
  ⟨fun _ _ _ _ => step_of_decode_ok,
    fun _ _ _ _ hd => step_of_decode_ok rfl rfl (decode_of_decodeTableWord hd)⟩

/-- Settles O8: the single registers by evaluation at their addresses, TXT and the reserved ranges by the
laws of the read port. -/
theorem readPortMap : Obligations.ReadPortMap := by
  refine fun s => ⟨rfl, rfl, rfl, rfl, rfl, rfl, rfl, rfl, fun i hi => ?_, readPort_reserved s⟩
  have ha : (BitVec.ofNat 8 (0x10 + i)).toNat = 0x10 + i := by
    rw [BitVec.toNat_ofNat, Nat.mod_eq_of_lt (by omega)]
  rw [readPort_txt s _ (by omega) (by omega), ha, Nat.add_sub_cancel_left, txtAt_eq _ hi]

end Sys2Proof.Machine
end

section
/-! SUPPORT. The round trips of 30_encoding.md: which operand fields decode to which command. -/

namespace Sys2Proof

open Laws.EncodesItsOpcode (opcode)

/-! ### The operand fields of a command -/

/-- The `IDX` a command's word carries (30_encoding.md R62). -/
def Instr.idxOperand : Instr → Nat
  | .ckld k _ => k
  | .mskld r _ => r.number
  | .bset _ i _ => i
  | .txtld i _ => i
  | _ => 0

/-- The `IMM` a command's word carries (30_encoding.md R62). -/
def Instr.immOperand : Instr → Octet
  | .crcb b => b
  | .ckld _ c => c
  | .nfset n => n
  | .mskld _ m => m
  | .bset r _ b => bsetImm r b
  | .txtld _ c => c
  | _ => 0

theorem encode_eq_commandWord (i : Instr) :
    encode i = commandWord (opcode i).toNat i.idxOperand i.immOperand := by
  cases i <;> rfl

theorem MaskSel.number_le (r : MaskSel) : r.number ≤ 1 := by
  cases r <;> decide

/-- The index of a well-formed command fits the 5 bits of `IDX` (30_encoding.md R61). -/
theorem idxOperand_lt_of_wellFormed {i : Instr} (h : WellFormed i) : i.idxOperand < 32 := by
  cases i with
  | ckld k c => have : k ≤ 2 := of_decide_eq_true h; simp only [Instr.idxOperand]; omega
  | mskld r m => have := r.number_le; simp only [Instr.idxOperand]; omega
  | bset r i b => have : i ≤ 7 := of_decide_eq_true h; simp only [Instr.idxOperand]; omega
  | txtld i c => have : i ≤ 16 := of_decide_eq_true h; simp only [Instr.idxOperand]; omega
  | _ => exact Nat.zero_lt_succ _

/-! ### What each shape of operand fields accepts -/

theorem decodeBare_eq_ok_iff {i j : Instr} {idx : Nat} {imm : Octet} :
    decodeBare i idx imm = .ok j ↔ i = j ∧ idx = 0 ∧ imm = 0#8 := by
  unfold decodeBare; split <;> simp_all

theorem decodeImmOnly_eq_ok_iff {i j : Instr} {idx : Nat} :
    decodeImmOnly i idx = .ok j ↔ i = j ∧ idx = 0 := by
  unfold decodeImmOnly; split <;> simp_all

theorem decodeIndexed_eq_ok_iff {i j : Instr} {idx last : Nat} :
    decodeIndexed i idx last = .ok j ↔ i = j ∧ idx ≤ last := by
  unfold decodeIndexed; split <;> simp_all

/-- The selector whose number is `idx`, for the two numbers there are. -/
theorem selOfBit_number (r : MaskSel) : selOfBit (decide (r.number = 1)) = r := by
  cases r <;> rfl

theorem number_selOfBit {idx : Nat} (h : idx ≤ 1) : (selOfBit (decide (idx = 1))).number = idx := by
  interval_cases idx <;> rfl

theorem decodeMskld_eq_ok_iff {idx : Nat} {imm : Octet} {j : Instr} :
    decodeMskld idx imm = .ok j ↔ ∃ r : MaskSel, j = .mskld r imm ∧ idx = r.number := by
  unfold decodeMskld
  constructor
  · intro h
    split at h
    next hidx => cases h; exact ⟨_, rfl, (number_selOfBit hidx).symm⟩
    next => cases h
  · rintro ⟨r, rfl, rfl⟩
    rw [if_pos r.number_le, selOfBit_number]

/-- An immediate with bits 7:2 clear is the one of the selector and the bit in it (30_encoding.md R61). -/
theorem bsetImm_of_fields {imm : Octet} (h : imm.extractLsb' 2 6 = 0#6) :
    bsetImm (selOfBit (imm.getLsbD 1)) (imm.getLsbD 0) = imm := by
  revert imm; decide

theorem decodeBset_eq_ok_iff {idx : Nat} {imm : Octet} {j : Instr} :
    decodeBset idx imm = .ok j ↔
      ∃ (r : MaskSel) (b : Bool), j = .bset r idx b ∧ idx ≤ 7 ∧ imm = bsetImm r b := by
  unfold decodeBset
  constructor
  · intro h
    split at h
    next => cases h
    next hidx =>
      split at h
      next himm => cases h; exact ⟨_, _, rfl, Nat.le_of_not_lt hidx, (bsetImm_of_fields himm).symm⟩
      next => cases h
  · rintro ⟨r, b, rfl, hidx, rfl⟩
    obtain ⟨himm, hr, hb⟩ := bsetImm_fields r b
    rw [if_neg (Nat.not_lt.mpr hidx), if_pos himm, hr, hb]

/-! ### The round trips -/

/-- The fields of a well-formed command decode to it. -/
theorem decodeOp_of_wellFormed {i : Instr} (h : WellFormed i) :
    decodeOp (opcode i).toNat i.idxOperand i.immOperand = .ok i := by
  cases i with
  | crcclr | crcenc | crcchk | packr | unpackr | errclr => rfl
  | crcb b | nfset n => rfl
  | ckld k c | txtld i c => exact decodeIndexed_eq_ok_iff.mpr ⟨rfl, of_decide_eq_true h⟩
  | mskld r m => exact decodeMskld_eq_ok_iff.mpr ⟨r, rfl, rfl⟩
  | bset r i b => exact decodeBset_eq_ok_iff.mpr ⟨r, b, rfl, of_decide_eq_true h, rfl⟩

/-- Fields that decode are those of the command they decode to, and it is well-formed. The cases
of `split` are numbered by `OP`. -/
theorem fields_of_decodeOp {op idx : Nat} {imm : Octet} {i : Instr} (h : decodeOp op idx imm = .ok i) :
    WellFormed i ∧ (opcode i).toNat = op ∧ i.idxOperand = idx ∧ i.immOperand = imm := by
  unfold decodeOp at h
  split at h
  case h_2 | h_6 => obtain ⟨rfl, rfl⟩ := decodeImmOnly_eq_ok_iff.mp h; exact ⟨rfl, rfl, rfl, rfl⟩
  case h_4 | h_10 =>
    obtain ⟨rfl, hidx⟩ := decodeIndexed_eq_ok_iff.mp h
    exact ⟨decide_eq_true hidx, rfl, rfl, rfl⟩
  case h_7 => obtain ⟨r, rfl, rfl⟩ := decodeMskld_eq_ok_iff.mp h; exact ⟨rfl, rfl, rfl, rfl⟩
  case h_8 =>
    obtain ⟨r, b, rfl, hidx, rfl⟩ := decodeBset_eq_ok_iff.mp h
    exact ⟨decide_eq_true hidx, rfl, rfl, rfl⟩
  case h_13 => cases h
  all_goals obtain ⟨rfl, rfl, rfl⟩ := decodeBare_eq_ok_iff.mp h; exact ⟨rfl, rfl, rfl, rfl⟩

/-- Settles O1: the word of a command carries its fields, and they decode to it. -/
theorem decodeEncodeRoundTrip : Obligations.DecodeEncodeRoundTrip := by
  intro i h
  rw [encode_eq_commandWord, decode_commandWord _ _ _ (opcode i).isLt (idxOperand_lt_of_wellFormed h),
    decodeOp_of_wellFormed h]

/-- Settles O2: a word that decodes is the command word of its own fields, which are the command's. -/
theorem encodeDecodeRoundTrip : Obligations.EncodeDecodeRoundTrip := by
  intro w i h
  obtain ⟨hhigh, hlow, hop⟩ := decode_eq_ok h
  obtain ⟨hwf, hopcode, hidx, himm⟩ := fields_of_decodeOp hop
  rw [encode_eq_commandWord, hopcode, hidx, himm]
  exact ⟨hwf, commandWord_of_fields w hhigh hlow⟩

end Sys2Proof
end

section
/-! SUPPORT. The illegal words of 30_encoding.md R64 and what a step makes of them. -/

namespace Sys2Proof

open Machine

/-! ### What each shape of operand fields rejects -/

/-- The decoder gives no command. -/
def Decoded.Rejected (d : Decoded) : Prop := ∃ why, d = .illegal why

@[simp] theorem rejected_illegal (why : IllegalReason) : (Decoded.illegal why).Rejected := ⟨why, rfl⟩

@[simp] theorem not_rejected_ok (i : Instr) : ¬ (Decoded.ok i).Rejected := fun ⟨_, h⟩ => nomatch h

/-- An answer that is a command under `p` and a reason otherwise is rejected exactly when `p` fails. -/
@[simp] theorem rejected_ite_iff (p : Prop) [Decidable p] (i : Instr) (why : IllegalReason) :
    (if p then Decoded.ok i else .illegal why).Rejected ↔ ¬ p := by
  split <;> simp_all

theorem decodeBare_rejected_iff (i : Instr) (idx : Nat) (imm : Octet) :
    (decodeBare i idx imm).Rejected ↔ idx ≠ 0 ∨ imm ≠ 0#8 := by
  rw [decodeBare, rejected_ite_iff, not_and_or]

theorem decodeImmOnly_rejected_iff (i : Instr) (idx : Nat) : (decodeImmOnly i idx).Rejected ↔ idx ≠ 0 := by
  rw [decodeImmOnly, rejected_ite_iff]

theorem decodeIndexed_rejected_iff (i : Instr) (idx last : Nat) :
    (decodeIndexed i idx last).Rejected ↔ last < idx := by
  rw [decodeIndexed, rejected_ite_iff, Nat.not_le]

theorem decodeMskld_rejected_iff (idx : Nat) (imm : Octet) : (decodeMskld idx imm).Rejected ↔ 1 < idx := by
  rw [decodeMskld, rejected_ite_iff, Nat.not_le]

theorem decodeBset_rejected_iff (idx : Nat) (imm : Octet) :
    (decodeBset idx imm).Rejected ↔ 7 < idx ∨ imm.extractLsb' 2 6 ≠ 0#6 := by
  unfold decodeBset
  split
  next h => simp [h]
  next h => rw [rejected_ite_iff, or_iff_right h]

/-! ### The illegal words -/

/-- The cases of 30_encoding.md R64 that speak of `OP`, `IDX` and `IMM`. -/
def IllegalFields (op idx : Nat) (imm : Octet) : Prop :=
  (op = 0x00 ∨ 0x0D ≤ op) ∨
  (op ∈ [0x01, 0x03, 0x05, 0x09, 0x0B, 0x0C] ∧ (idx ≠ 0 ∨ imm ≠ 0#8)) ∨
  (op ∈ [0x02, 0x06] ∧ idx ≠ 0) ∨
  (op = 0x04 ∧ 2 < idx) ∨ (op = 0x07 ∧ 1 < idx) ∨ (op = 0x08 ∧ 7 < idx) ∨ (op = 0x0A ∧ 16 < idx) ∨
  (op = 0x08 ∧ imm.extractLsb' 2 6 ≠ 0#6)

/-- The bits `IMM[7:2]` of a word. -/
theorem extractLsb'_immField (w : CommandWord) : (immField w).extractLsb' 2 6 = w.extractLsb' 2 6 := by
  apply BitVec.eq_of_getLsbD_eq
  intro i hi
  simp [immField]

theorem illegalWord_iff (w : CommandWord) : IllegalWord w ↔
    (reservedHigh w ≠ 0#3 ∨ reservedLow w ≠ 0#8) ∨
      IllegalFields (opField w).toNat (idxField w).toNat (immField w) := by
  rw [IllegalFields, extractLsb'_immField]
  exact Iff.rfl

/-- The `case OP of` of 30_encoding.md R63 rejects exactly the fields that R64 lists. The cases of
`split` are numbered by `OP`; the last is every value that is no opcode. -/
theorem decodeOp_rejected_iff (op idx : Nat) (imm : Octet) :
    (decodeOp op idx imm).Rejected ↔ IllegalFields op idx imm := by
  unfold decodeOp
  split
  case h_2 | h_6 => simp [decodeImmOnly_rejected_iff, IllegalFields]
  case h_4 | h_10 => simp [decodeIndexed_rejected_iff, IllegalFields]
  case h_7 => simp [decodeMskld_rejected_iff, IllegalFields]
  case h_8 => simp [decodeBset_rejected_iff, IllegalFields]
  case h_13 =>
    have hop : op = 0x00 ∨ 0x0D ≤ op := by simp only [imp_false] at *; omega
    exact iff_of_true (rejected_illegal _) (.inl hop)
  all_goals simp [decodeBare_rejected_iff, IllegalFields]

theorem decode_rejected_iff (w : CommandWord) : (decode w).Rejected ↔ IllegalWord w := by
  rw [illegalWord_iff, decode, ← not_and_or, ← decodeOp_rejected_iff]
  split <;> simp [*]

/-- A word is legal exactly when it decodes to a command. -/
theorem not_illegalWord_iff (w : CommandWord) : ¬ IllegalWord w ↔ ∃ i, decode w = .ok i := by
  rw [← decode_rejected_iff]
  cases decode w <;> simp

theorem illegalWord_zero : IllegalWord 0x00000000#32 := .inr (.inl (.inl (by decide)))

theorem step_of_decode_illegal {s : State} {w : CommandWord} {rest : List HostAction}
    {why : IllegalReason} (hr : s.wasReset = true) (hp : s.pending = .command w :: rest)
    (hd : decode w = .illegal why) : step s = .next (record .illegalCommand (withPending s rest)) := by
  rw [step_command hp, if_pos hr, performCommand_of_decode_illegal hd]

/-- Settles O3: the decoder's tests are the cases of R64, and an illegal word is recorded and nothing else. -/
theorem illegalWordsRecordIllegalCommand : Obligations.IllegalWordsRecordIllegalCommand := by
  refine ⟨decode_rejected_iff, illegalWord_zero, fun s w rest hr hp hw => ?_⟩
  obtain ⟨why, hd⟩ := (decode_rejected_iff w).mpr hw
  exact ⟨_, step_of_decode_illegal hr hp hd, record_onlyRecords .illegalCommand _⟩

end Sys2Proof
end

section
/-! SUPPORT. The rows of opcode_table.json, read as conditions on the fields of a word. -/

namespace Sys2Proof

open Machine
open Laws.EncodesItsOpcode (opcode)

/-! ### A word under a match and a mask -/

/-- A word is a command word exactly when its fields are those of it (30_encoding.md R60). -/
theorem eq_commandWord_iff (w : CommandWord) (op idx : Nat) (imm : Octet) :
    w = commandWord op idx imm ↔
      (reservedHigh w = 0#3 ∧ reservedLow w = 0#8) ∧
        opField w = BitVec.ofNat 8 op ∧ idxField w = BitVec.ofNat 5 idx ∧ immField w = imm := by
  constructor
  · rintro rfl
    simp
  · rintro ⟨⟨hhigh, hlow⟩, hop, hidx, himm⟩
    rw [← commandWord_of_fields w hhigh hlow, hop, hidx, himm]
    simp only [commandWord, BitVec.ofNat_toNat, BitVec.setWidth_eq]

theorem opField_and (v w : CommandWord) : opField (v &&& w) = opField v &&& opField w :=
  BitVec.extractLsb'_and
theorem reservedHigh_and (v w : CommandWord) : reservedHigh (v &&& w) = reservedHigh v &&& reservedHigh w :=
  BitVec.extractLsb'_and
theorem idxField_and (v w : CommandWord) : idxField (v &&& w) = idxField v &&& idxField w :=
  BitVec.extractLsb'_and
theorem reservedLow_and (v w : CommandWord) : reservedLow (v &&& w) = reservedLow v &&& reservedLow w :=
  BitVec.extractLsb'_and
theorem immField_and (v w : CommandWord) : immField (v &&& w) = immField v &&& immField w :=
  BitVec.extractLsb'_and

/-- Every mask of the table covers `OP` and the reserved bits. -/
theorem tableRow_mask_fields (i : Instr) : opField (tableRow i).2.1 = BitVec.allOnes 8 ∧
    reservedHigh (tableRow i).2.1 = BitVec.allOnes 3 ∧ reservedLow (tableRow i).2.1 = BitVec.allOnes 8 := by
  cases i <;> simp only [tableRow] <;> decide

/-- The row of a command asks for its opcode in `OP`, for 0 in the reserved bits, and for 0 in the bits of
`IDX` and `IMM` that its mask names. -/
theorem tableRow_match_iff (w : CommandWord) (i : Instr) : w &&& (tableRow i).2.1 = (tableRow i).1 ↔
    (reservedHigh w = 0#3 ∧ reservedLow w = 0#8) ∧ opField w = opcode i ∧
      idxField w &&& idxField (tableRow i).2.1 = 0#5 ∧ immField w &&& immField (tableRow i).2.1 = 0#8 := by
  have hmatch : (tableRow i).1 = commandWord (opcode i).toNat 0 0 := by
    cases i <;> simp only [tableRow, opcode] <;> decide
  obtain ⟨hop, hhigh, hlow⟩ := tableRow_mask_fields i
  rw [hmatch, eq_commandWord_iff, opField_and, reservedHigh_and, idxField_and, reservedLow_and, immField_and,
    hop, hhigh, hlow]
  simp only [BitVec.and_allOnes, BitVec.ofNat_toNat, BitVec.setWidth_eq]
  exact Iff.rfl

theorem and_0x1F_eq_zero_iff (idx : BitVec 5) : idx &&& 0x1F#5 = 0#5 ↔ idx.toNat = 0 := by
  rw [show idx &&& 0x1F#5 = idx from BitVec.and_allOnes]
  exact BitVec.toNat_eq

theorem and_0xFF_eq_zero_iff (b : Octet) : b &&& 0xFF#8 = 0#8 ↔ b = 0#8 := by
  rw [show b &&& 0xFF#8 = b from BitVec.and_allOnes]

/-- Bits 7:2 of an octet are 0 exactly when its mask with 0xFC is. -/
theorem and_0xFC_eq_zero_iff (b : Octet) : b &&& 0xFC#8 = 0#8 ↔ b.extractLsb' 2 6 = 0#6 := by
  revert b; decide

/-! ### The rows of the table

The operand fields of the four masks of the table: both operands unused, `IMM` used, both used, and
BSET's, which leaves `IMM[1:0]` free. -/

theorem maskFields_bare : idxField 0xFFFFFFFF#32 = 0x1F#5 ∧ immField 0xFFFFFFFF#32 = 0xFF#8 := by decide

theorem maskFields_immOnly : idxField 0xFFFFFF00#32 = 0x1F#5 ∧ immField 0xFFFFFF00#32 = 0x00#8 := by decide

theorem maskFields_indexed : idxField 0xFFE0FF00#32 = 0x00#5 ∧ immField 0xFFE0FF00#32 = 0x00#8 := by decide

theorem maskFields_bset : idxField 0xFFE0FFFC#32 = 0x00#5 ∧ immField 0xFFE0FFFC#32 = 0xFC#8 := by decide

/-- The operand bits that a row asks to be 0 and its index range are the cases of R64 for its opcode. -/
theorem tableRow_operands_iff (i : Instr) (idx : BitVec 5) (imm : Octet) :
    (idx &&& idxField (tableRow i).2.1 = 0#5 ∧ imm &&& immField (tableRow i).2.1 = 0#8) ∧
        idx.toNat ≤ (tableRow i).2.2 ↔
      ¬ IllegalFields (opcode i).toNat idx.toNat imm := by
  cases i with
  | crcb b | nfset n =>
    simp [tableRow, maskFields_immOnly, opcode, IllegalFields, and_0x1F_eq_zero_iff]
  | bset r i b =>
    simp [tableRow, maskFields_bset, opcode, IllegalFields, and_0xFC_eq_zero_iff, and_comm]
  | ckld k c | mskld r m | txtld i c =>
    simp [tableRow, maskFields_indexed, opcode, IllegalFields]
  | _ =>
    simp [tableRow, maskFields_bare, opcode, IllegalFields, and_0x1F_eq_zero_iff, and_0xFF_eq_zero_iff,
      and_right_comm]

/-- A row's match and index range admit exactly the legal words of its opcode. -/
theorem tableRow_admits_iff (w : CommandWord) (i : Instr) :
    (w &&& (tableRow i).2.1 = (tableRow i).1 ∧ (idxField w).toNat ≤ (tableRow i).2.2) ↔
      opField w = opcode i ∧ ¬ IllegalWord w := by
  rw [tableRow_match_iff, illegalWord_iff, not_or, not_or, not_not, not_not]
  constructor
  · rintro ⟨⟨hreserved, hop, hzero⟩, hidx⟩
    rw [hop]
    exact ⟨rfl, hreserved, (tableRow_operands_iff i _ _).mp ⟨hzero, hidx⟩⟩
  · rintro ⟨hop, hreserved, hlegal⟩
    rw [hop] at hlegal
    obtain ⟨hzero, hidx⟩ := (tableRow_operands_iff i _ _).mpr hlegal
    exact ⟨⟨hreserved, hop, hzero⟩, hidx⟩

theorem opField_of_decode {w : CommandWord} {i : Instr} (h : decode w = .ok i) : opField w = opcode i := by
  obtain ⟨-, -, hop⟩ := decode_eq_ok h
  obtain ⟨-, hopcode, -, -⟩ := fields_of_decodeOp hop
  exact BitVec.eq_of_toNat_eq hopcode.symm

/-- The twelve opcodes are distinct, so that one opcode has one row. -/
theorem tableRow_eq_of_opcode_eq {i j : Instr} (h : opcode j = opcode i) : tableRow j = tableRow i := by
  cases i <;> cases j <;> simp_all [opcode, tableRow]

/-- Settles O5: the row of a command admits exactly the words of its opcode that decode. -/
theorem decoderAgreesWithOpcodeTable : Obligations.DecoderAgreesWithOpcodeTable := by
  refine ⟨fun w i hd => ?_, fun w i hmatch hidx => ?_⟩
  · exact (tableRow_admits_iff w i).mpr ⟨opField_of_decode hd, (not_illegalWord_iff w).mpr ⟨i, hd⟩⟩
  · obtain ⟨hop, hlegal⟩ := (tableRow_admits_iff w i).mp ⟨hmatch, hidx⟩
    obtain ⟨j, hd⟩ := (not_illegalWord_iff w).mp hlegal
    exact ⟨j, hd, tableRow_eq_of_opcode_eq ((opField_of_decode hd).symm.trans hop)⟩

end Sys2Proof
end

section
/-! SUPPORT. Commands as abstract terms with an index out of range, and the assembler's lines. -/

namespace Sys2Proof.Machine

/-! ### Commands with an index out of range -/

/-- An index out of range is an illegal command before it is any other error (60_exceptions.md R145). -/
theorem raises_of_not_wellFormed {i : Instr} {s : State} {code : BitVec 4} (h : Raises i s code)
    (hw : ¬ WellFormed i) : code = 1#4 := by
  cases h with
  | illegalOperand => rfl
  | badCount | badSeparator | badDigit | invalidChecksum => exact absurd rfl hw

/-- Of the completions of a command only the recorded error is open to one with an index out of range. -/
theorem ExecEffect.onlyRecords_of_not_wellFormed {i : Instr} {s t : State} (he : ExecEffect s i t)
    (hw : ¬ WellFormed i) : OnlyRecords 1#4 s t := by
  cases he with
  | raised _ e hr _ => exact raises_of_not_wellFormed hr hw ▸ record_onlyRecords e s
  | ckld _ _ h | bset _ _ _ h | txtld _ _ h => exact absurd (decide_eq_true h) hw
  | _ => exact absurd rfl hw

/-- Settles O43: a command ends in one of its completions, and here that is the recorded error. -/
theorem illFormedCommandsAreIllegal : Obligations.IllFormedCommandsAreIllegal := by
  intro i s hw
  obtain ⟨t, ht, he⟩ := exec_effect i s
  exact ⟨t, ht, he.onlyRecords_of_not_wellFormed hw⟩

/-! ### The assembler -/

/-- Settles O4, line by line of the table. -/
theorem sampleEncodings : Obligations.SampleEncodings := by
  unfold Obligations.SampleEncodings
  decide

/-- CKLDS with other than 3 characters is refused (30_encoding.md R69). -/
theorem ckldsScript_eq_none {s : List Octet} (h : s.length ≠ 3) : ckldsScript s = none := if_neg h

/-- TXTLDS with more than 17 characters is refused (30_encoding.md R69). -/
theorem txtldsScript_eq_none {s : List Octet} (h : 17 < s.length) : txtldsScript s = none :=
  if_neg (Nat.not_le.mpr h)

/-- TXTLDS loads character `i` at index `i`, one command for each character (30_encoding.md R69). -/
theorem exists_txtldsScript {s : List Octet} (h : s.length ≤ 17) : ∃ script,
    txtldsScript s = some script ∧ script.length = s.length ∧
      ∀ (i : Nat) (c : Octet), s[i]? = some c → script[i]? = some (.txtld i c) :=
  ⟨_, if_pos h, by simp, fun i c hc => by simp [hc]⟩

/-- Settles O46: the fixed expansions by evaluation, the lengths by the laws of the scripts. -/
theorem pseudoInstructionsExpand : Obligations.PseudoInstructionsExpand := by
  refine ⟨fun _ => rfl, rfl, fun _ _ _ => rfl, fun _ => ckldsScript_eq_none, fun _ => exists_txtldsScript,
    fun _ => txtldsScript_eq_none, rfl, fun _ => rfl, fun _ _ _ _ => rfl, fun s cand h => ?_⟩
  rw [expand, ckldsScript_eq_none h, Option.map_none]

end Sys2Proof.Machine
end

section
/-! SUPPORT. The arithmetic of the CRC (40_crc.md R81, R82, R86, R89): the iteration is linear and loses
nothing, and so are the octet step and the fold over a string. -/

namespace Sys2Proof.Machine

/-! ### The iteration -/

theorem crcShifts_eq_iterate (n : Nat) (c : Crc16) : crcShifts n c = crcShift^[n] c := by
  induction n generalizing c with
  | zero => rfl
  | succ n ih => exact ih (crcShift c)

/-- A linear map that sends only 0 to 0 is injective. -/
theorem crcShift_injective : Function.Injective crcShift := by
  intro a b h
  have hxor : crcShift (a ^^^ b) = 0#16 := by rw [crcShift_xor, h, BitVec.xor_self]
  exact BitVec.xor_eq_zero_iff.mp (crcShift_eq_zero hxor)

theorem crcShifts_injective (n : Nat) : Function.Injective (crcShifts n) := by
  rw [funext (crcShifts_eq_iterate n)]
  exact crcShift_injective.iterate n

/-! ### One octet -/

theorem crcByte_xor (a b : Crc16) (x y : Octet) :
    crcByte (a ^^^ b) (x ^^^ y) = crcByte a x ^^^ crcByte b y := by
  rw [crcByte, crcByte, crcByte, ← crcShifts_xor, BitVec.setWidth_xor]
  congr 1
  ac_rfl

/-- The register before an octet can be told from the register after it. -/
theorem crcByte_left_injective (b : Octet) : Function.Injective (crcByte · b) := by
  intro c d h
  exact (BitVec.xor_left_inj _).mp (crcShifts_injective 8 h)

/-- The octet absorbed can be told from the register after it. -/
theorem crcByte_right_injective (c : Crc16) : Function.Injective (crcByte c) := by
  intro x y h
  have hxy : x.setWidth 16 = y.setWidth 16 := (BitVec.xor_right_inj _).mp (crcShifts_injective 8 h)
  simpa using congrArg (BitVec.setWidth 8) hxy

theorem crcByte_zero : crcByte 0x0000#16 0x00#8 = 0x0000#16 := by decide

/-! ### The bit-serial form -/

/-- Shifting a register with `x` fed in absorbs bit 0 of `x` and leaves the rest of `x` fed in. -/
theorem crcShift_xor_eq_serialBit (c x : Crc16) :
    crcShift (c ^^^ x) = crcSerialBit c (x.getLsbD 0) ^^^ (x >>> 1) := by
  rw [crcShift, crcSerialBit, BitVec.getLsbD_xor, BitVec.ushiftRight_xor_distrib]
  split
  · ac_rfl
  · rfl

/-- Absorbing the low `n` bits of `x` one by one is feeding `x` in and shifting `n` times, if `x` has no
other bits (40_crc.md R82). -/
theorem foldl_serialBit_eq_crcShifts (n : Nat) (c x : Crc16) (hx : x >>> n = 0#16) :
    (List.range n).foldl (fun acc i => crcSerialBit acc (x.getLsbD i)) c = crcShifts n (c ^^^ x) := by
  induction n generalizing c x with
  | zero => simp_all [crcShifts]
  | succ n ih =>
    have hrest : (x >>> 1) >>> n = 0#16 := by rw [← BitVec.shiftRight_add, Nat.add_comm, hx]
    have hbits (i : Nat) : x.getLsbD (i + 1) = (x >>> 1).getLsbD i := by
      rw [BitVec.getLsbD_ushiftRight, Nat.add_comm]
    simp only [List.range_succ_eq_map, List.foldl_cons, List.foldl_map, Nat.succ_eq_add_one, hbits]
    rw [ih _ _ hrest, crcShifts, crcShift_xor_eq_serialBit]

theorem crcByteSerial_eq_crcByte (c : Crc16) (b : Octet) : crcByteSerial c b = crcByte c b := by
  have hb : b.setWidth 16 >>> 8 = 0#16 := by
    apply BitVec.eq_of_getLsbD_eq
    simp [BitVec.getLsbD_setWidth]
  rw [crcByte, ← foldl_serialBit_eq_crcShifts 8 c _ hb, crcByteSerial]
  refine List.foldl_ext _ _ _ fun acc i hi => ?_
  rw [BitVec.getLsbD_setWidth]
  simp [(List.mem_range.mp hi).trans (by decide : 8 < 16)]

/-- Settles O15, by absorbing the octet bit by bit. -/
theorem bitSerialCrcEqualsBytewise : Obligations.BitSerialCrcEqualsBytewise :=
  ⟨crcByteSerial_eq_crcByte, by decide⟩

/-! ### Strings -/

@[simp] theorem crcFrom_nil (c : Crc16) : crcFrom c [] = c := rfl

@[simp] theorem crcFrom_cons (c : Crc16) (b : Octet) (s : List Octet) :
    crcFrom c (b :: s) = crcFrom (crcByte c b) s := rfl

theorem crcFrom_append (c : Crc16) (s t : List Octet) : crcFrom c (s ++ t) = crcFrom (crcFrom c s) t :=
  List.foldl_append

theorem crcOf_append (s t : List Octet) : crcOf (s ++ t) = crcFrom (crcOf s) t := crcFrom_append _ s t

theorem crcFrom_xor (a b : Crc16) (s t : List Octet) (h : s.length = t.length) :
    crcFrom (a ^^^ b) (List.zipWith (· ^^^ ·) s t) = crcFrom a s ^^^ crcFrom b t := by
  induction s generalizing t a b with
  | nil => rw [List.length_eq_zero_iff.mp h.symm]; rfl
  | cons x s ih =>
    match t, h with
    | y :: t, h =>
      rw [List.zipWith_cons_cons, crcFrom_cons, crcByte_xor]
      exact ih _ _ t (Nat.succ.inj h)

/-- No string maps two register values to one. -/
theorem crcFrom_injective (s : List Octet) : Function.Injective (crcFrom · s) := by
  induction s with
  | nil => exact Function.injective_id
  | cons b s ih => exact ih.comp (crcByte_left_injective b)

/-- Zero octets do not show on a zero register (40_crc.md R81). -/
theorem crcOf_replicate_zero (n : Nat) : crcOf (List.replicate n 0x00#8) = 0x0000#16 := by
  induction n with
  | zero => rfl
  | succ n ih => rw [List.replicate_succ', crcOf_append, ih, crcFrom_cons, crcFrom_nil, crcByte_zero]

/-- Settles O22: the fold is linear, and both sides start from 0. -/
theorem crcIsLinear : Obligations.CrcIsLinear :=
  fun s t h => crcFrom_xor crcInit crcInit s t h

end Sys2Proof.Machine
end

section
/-! SUPPORT. The three checksum characters (40_crc.md R87): a group under `CK_OFFSET`, and the inverse. -/

namespace Sys2Proof.Machine

/-! ### One character -/

/-- A group of at most 6 bits has no bit in common with `CK_OFFSET`. -/
theorem ckOffset_and_group {n : Nat} (hn : n ≤ 6) (g : BitVec n) : ckOffset &&& g.setWidth 8 = 0#8 := by
  apply BitVec.eq_of_getLsbD_eq
  intro i hi
  rw [BitVec.getLsbD_and, BitVec.getLsbD_setWidth, BitVec.getLsbD_zero]
  rcases Nat.lt_or_ge i 6 with h | h
  · have : ckOffset.getLsbD i = false := by interval_cases i <;> decide
    rw [this, Bool.false_and]
  · rw [BitVec.getLsbD_of_ge g i (hn.trans h), Bool.and_false, Bool.and_false]

/-- So the OR is an addition (40_crc.md R87). -/
theorem ckOffset_or_group {n : Nat} (hn : n ≤ 6) (g : BitVec n) :
    ckOffset ||| g.setWidth 8 = ckOffset + g.setWidth 8 :=
  (BitVec.add_eq_or_of_and_eq_zero _ _ (ckOffset_and_group hn g)).symm

theorem toNat_ckOffset_or_group {n : Nat} (hn : n ≤ 6) (g : BitVec n) :
    (ckOffset ||| g.setWidth 8).toNat = 0x40 + g.toNat := by
  have hg : g.toNat < 64 := g.isLt.trans_le (Nat.pow_le_pow_right (by decide) hn)
  rw [ckOffset_or_group hn, BitVec.toNat_add, BitVec.toNat_setWidth, ckOffset, BitVec.toNat_ofNat]
  omega

/-! ### The inverse -/

/-- Masking a character gives its group back. -/
theorem ckOffset_or_and_0x0F (g : BitVec 4) : (ckOffset ||| g.setWidth 8) &&& 0x0F#8 = g.setWidth 8 := by
  revert g; decide

theorem ckOffset_or_and_0x3F (g : BitVec 6) : (ckOffset ||| g.setWidth 8) &&& 0x3F#8 = g.setWidth 8 := by
  revert g; decide

/-- A CRC is its three groups at their places (40_crc.md R83). -/
theorem crc_eq_groups (c : Crc16) :
    ((c.extractLsb' 12 4).setWidth 8).setWidth 16 <<< 12 |||
      ((c.extractLsb' 6 6).setWidth 8).setWidth 16 <<< 6 |||
      ((c.extractLsb' 0 6).setWidth 8).setWidth 16 = c := by
  apply BitVec.eq_of_getLsbD_eq
  intro i hi
  interval_cases i <;> simp

theorem encInverse_enc (c : Crc16) : encInverse (enc c) = c := by
  show ((ckOffset ||| (c.extractLsb' 12 4).setWidth 8) &&& 0x0F#8).setWidth 16 <<< 12 |||
    ((ckOffset ||| (c.extractLsb' 6 6).setWidth 8) &&& 0x3F#8).setWidth 16 <<< 6 |||
    ((ckOffset ||| (c.extractLsb' 0 6).setWidth 8) &&& 0x3F#8).setWidth 16 = c
  rw [ckOffset_or_and_0x0F, ckOffset_or_and_0x3F, ckOffset_or_and_0x3F, crc_eq_groups]

theorem enc_injective : Function.Injective enc := Function.LeftInverse.injective encInverse_enc

/-- The groups of `enc`, written as slices of the register (40_crc.md R83). -/
theorem enc_groups (c : Crc16) :
    (enc c)[0] = 0x40#8 ||| (c.extractLsb 15 12).setWidth 8 ∧
    (enc c)[1] = 0x40#8 ||| (c.extractLsb 11 6).setWidth 8 ∧
    (enc c)[2] = 0x40#8 ||| (c.extractLsb 5 0).setWidth 8 := ⟨rfl, rfl, rfl⟩

/-- Settles O20: each character by the laws of a group, the CRC by masking and reassembling. -/
theorem encodingOfTheChecksum : Obligations.EncodingOfTheChecksum := by
  refine ⟨fun c => ⟨enc_groups c, ?_, ?_, ?_, ?_, (encInverse_enc c).symm⟩, fun _ _ h => enc_injective h,
    by decide⟩
  · exact ⟨ckOffset_or_group (by decide) (c.extractLsb' 12 4),
      ckOffset_or_group (by decide) (c.extractLsb' 6 6), ckOffset_or_group (by decide) (c.extractLsb' 0 6)⟩
  · have h : (enc c)[0].toNat = _ := toNat_ckOffset_or_group (by decide) (c.extractLsb' 12 4)
    omega
  · have h : (enc c)[1].toNat = _ := toNat_ckOffset_or_group (by decide) (c.extractLsb' 6 6)
    omega
  · have h : (enc c)[2].toNat = _ := toNat_ckOffset_or_group (by decide) (c.extractLsb' 0 6)
    omega

/-- Settles O23: what stands before the octet is one register value, the octet makes it two, and neither
the rest of the string nor the encoding makes them one again. -/
theorem singleOctetChangeIsDetected : Obligations.SingleOctetChangeIsDetected := by
  intro before after x y hxy
  have hcrc : crcOf (before ++ x :: after) ≠ crcOf (before ++ y :: after) := by
    rw [crcOf_append, crcOf_append]
    exact fun h => hxy (crcByte_right_injective _ (crcFrom_injective after h))
  exact ⟨hcrc, fun h => hcrc (enc_injective h)⟩

end Sys2Proof.Machine
end

section
/-! SUPPORT. The commands of the CRC family (40_crc.md R80 to R86): their frames, and what a sequence of
them leaves. -/

namespace Sys2Proof.Machine

/-! ### Frames -/

theorem onlyMOfStatus_setM {s t : State} (m : Bool) (h : t.status = s.status) : OnlyMOfStatus s (t.setM m) := by
  simp [OnlyMOfStatus, State.err_congr h, h]

theorem onlyChanges_setCrc_setM (s : State) (c : Crc16) (m : Bool) :
    OnlyChanges [0x00, 0x07] s ((s.setCrc c).setM m) := by
  refine ⟨?_, rfl, rfl, rfl⟩
  apply readsSameExcept_of <;> simp

theorem onlyChanges_setCks (s : State) (v : Vector Octet 3) :
    OnlyChanges [0x01, 0x02, 0x03] s (s.setCks v) := by
  refine ⟨?_, rfl, rfl, rfl⟩
  apply readsSameExcept_of <;> simp

theorem onlyChanges_setCk_setM (s : State) (k : Nat) (c : Octet) (m : Bool) :
    OnlyChanges [0x01 + k, 0x07] s ((s.setCk k c).setM m) := by
  have hother (j : Nat) (hj : j < 3) (h : 0x01 + j ∉ [0x01 + k, 0x07]) :
      (s.ck.setIfInBounds k c)[j] = s.ck[j] := by
    have hne : k ≠ j := fun hkj => h (hkj ▸ List.mem_cons_self)
    exact Vector.getElem_setIfInBounds_ne hj hne
  refine ⟨readsSameExcept_of (fun _ => rfl) (hother 0 (by decide)) (hother 1 (by decide))
    (hother 2 (by decide)) (fun _ => rfl) (fun _ => rfl) (fun _ => rfl) (fun h => ?_)
    (fun _ _ _ => rfl), rfl, rfl, rfl⟩
  simp at h

theorem onlyChanges_setM (s : State) (m : Bool) : OnlyChanges [0x07] s (s.setM m) := by
  refine ⟨?_, rfl, rfl, rfl⟩
  apply readsSameExcept_of <;> simp

theorem OnlyChanges.trans {A : List Nat} {s t u : State} (h₁ : OnlyChanges A s t) (h₂ : OnlyChanges A t u) :
    OnlyChanges A s u := by
  obtain ⟨hreads, hp, hd, hr⟩ := h₁
  obtain ⟨hreads', hp', hd', hr'⟩ := h₂
  exact ⟨fun a ha => (hreads' a ha).trans (hreads a ha), hp'.trans hp, hd'.trans hd, hr'.trans hr⟩

/-! ### The later write of a register stays -/

@[simp] theorem State.setCrc_setCrc (s : State) (c d : Crc16) : (s.setCrc c).setCrc d = s.setCrc d := rfl

@[simp] theorem State.setCk_setCk (s : State) (k : Nat) (c d : Octet) :
    (s.setCk k c).setCk k d = s.setCk k d := by
  simp [State.setCk]

theorem State.setCk_comm (s : State) {j k : Nat} (h : j ≠ k) (c d : Octet) :
    (s.setCk j c).setCk k d = (s.setCk k d).setCk j c := by
  have hck : (s.ck.setIfInBounds j c).setIfInBounds k d = (s.ck.setIfInBounds k d).setIfInBounds j c :=
    Vector.toArray_inj.mp (by simpa using Array.setIfInBounds_comm c d h)
  exact congrArg s.setCks hck

/-- The three characters loaded one by one (40_crc.md R84). -/
theorem State.setCk_all (s : State) (a0 a1 a2 : Octet) :
    ((s.setCk 0 a0).setCk 1 a1).setCk 2 a2 = s.setCks #v[a0, a1, a2] := by
  have hck : (((s.setCk 0 a0).setCk 1 a1).setCk 2 a2).ck = #v[a0, a1, a2] := by
    apply ck_ext <;> simp
  exact congrArg s.setCks hck

theorem State.setCks_of_eq {s : State} {v : Vector Octet 3} (h : s.ck = v) : s.setCks v = s := by
  rw [← h]
  rfl

/-! ### Each command -/

theorem exec_crcclr (s : State) : exec .crcclr s = .next ((s.setCrc crcInit).setM false) := rfl

theorem exec_crcb (b : Octet) (s : State) :
    exec (.crcb b) s = .next ((s.setCrc (crcByte s.crc b)).setM false) := rfl

theorem exec_crcenc (s : State) : exec .crcenc s = .next (s.setCks (enc s.crc)) := rfl

theorem exec_ckld {k : Nat} (hk : k ≤ 2) (c : Octet) (s : State) :
    exec (.ckld k c) s = .next ((s.setCk k c).setM false) := if_pos hk

/-- Settles O13: the second CRCCLR writes what the first has left. -/
theorem crcclrClearsTheCrc : Obligations.CrcclrClearsTheCrc := by
  refine ⟨by decide, fun s => ⟨_, exec_crcclr s, rfl, State.m_setM _ _, onlyMOfStatus_setM _ rfl,
    onlyChanges_setCrc_setM _ _ _, ?_⟩⟩
  rw [exec_crcclr, State.setCrc_setM, State.setCrc_setCrc, State.setM_setM]

theorem encode_crcb (b : Octet) : encode (.crcb b) = 0x02000000#32 ||| b.setWidth 32 := by
  simp [encode, commandWord]

/-- Settles O14: the register is shifted by the iterate of one function, which is `crcShift`. -/
theorem crcbAbsorbsOneOctet : Obligations.CrcbAbsorbsOneOctet :=
  ⟨fun b s => ⟨_, exec_crcb b s, crcShifts_eq_iterate 8 _, State.m_setM _ _, onlyMOfStatus_setM _ rfl,
    onlyChanges_setCrc_setM _ _ _, encode_crcb b⟩, crcOf_replicate_zero⟩

/-- Settles O16: where M = 1 the invariant makes CK the encoding already. -/
theorem crcencWritesTheThreeCharacters : Obligations.CrcencWritesTheThreeCharacters := by
  refine ⟨by decide, fun s => ?_⟩
  obtain ⟨h0, h1, h2⟩ := enc_groups s.crc
  refine ⟨_, exec_crcenc s, h0, h1, h2, onlyChanges_setCks s _,
    fun hinv hm => State.setCks_of_eq (hinv.freshMatch hm), fun h => ?_, fun h => ?_⟩
  · rw [State.ck_setCks, h]
    decide
  · rw [State.ck_setCks, h]
    decide

theorem encode_ckld {k : Nat} (hk : k ≤ 2) (c : Octet) :
    encode (.ckld k c) = 0x04000000#32 ||| (BitVec.ofNat 32 k <<< 16) ||| c.setWidth 32 := by
  interval_cases k <;> simp [encode, commandWord]

/-! ### Sequences of commands -/

theorem execAll_cons {i : Instr} {s t : State} (h : exec i s = .next t) (rest : List Instr) :
    execAll (i :: rest) s = execAll rest t := by
  rw [execAll, h]

theorem execAll_singleton (i : Instr) (s : State) : execAll [i] s = exec i s := by
  obtain ⟨t, ht, -⟩ := exec_effect i s
  rw [execAll_cons ht, execAll, ht]

theorem execAll_append {first : List Instr} {s t : State} (h : execAll first s = .next t)
    (second : List Instr) : execAll (first ++ second) s = execAll second t := by
  induction first generalizing s with
  | nil => cases h; rfl
  | cons i first ih =>
    obtain ⟨u, hu, -⟩ := exec_effect i s
    rw [execAll_cons hu] at h
    rw [List.cons_append, execAll_cons hu, ih h]

/-- Settles O17: a load is a write of one register and of M, and so are two of them. -/
theorem ckldLoadsOneCharacter : Obligations.CkldLoadsOneCharacter := by
  refine ⟨fun k c s hk => ?_, fun k c s hk => ?_, fun k c d s hk => ?_, fun j k c d s hj hk hjk => ?_⟩
  · refine ⟨_, exec_ckld hk c s, ?_, State.m_setM _ _, onlyMOfStatus_setM _ rfl,
      onlyChanges_setCk_setM s k c false, encode_ckld hk c⟩
    rw [State.ck_setM, State.ck_setCk, Vector.getElem?_setIfInBounds_self, if_pos (by omega)]
  · exact ⟨_, if_neg (Nat.not_le.mpr hk), record_onlyRecords .illegalCommand s⟩
  · rw [execAll_cons (exec_ckld hk c s), execAll_singleton, exec_ckld hk, exec_ckld hk]
    simp
  · rw [execAll_cons (exec_ckld hj c s), execAll_cons (exec_ckld hk d s), execAll_singleton,
      execAll_singleton, exec_ckld hk, exec_ckld hj, State.setCk_setM, State.setCk_setM,
      State.setCk_comm s hjk]

/-- What CRCCHK does to STATUS and to all else, by the outcome of its comparison (40_crc.md R85). -/
theorem ExecEffect.crcchk_frame {s t : State} (he : ExecEffect s .crcchk t) :
    (s.ck = enc s.crc → t.err = s.err) ∧
    (s.ck ≠ enc s.crc → t.err = if s.err = 0#4 then 5#4 else s.err) ∧ OnlyChanges [0x07] s t := by
  cases he with
  | crcchkMatch h => exact ⟨fun _ => State.err_setM _ _, absurd h, onlyChanges_setM s true⟩
  | crcchkMismatch h =>
    obtain ⟨⟨herr, -⟩, hframe⟩ := record_onlyRecords .invalidChecksum (s.setM false)
    rw [State.err_setM] at herr
    exact ⟨(absurd · h), fun _ => herr, (onlyChanges_setM s false).trans hframe⟩
  | raised _ _ _ hi => exact absurd rfl hi

/-- Settles O18: M is the outcome of the comparison, which CRCENC makes hold and reset does not. -/
theorem crcchkComparesTheChecksum : Obligations.CrcchkComparesTheChecksum := by
  refine ⟨by decide, fun s => ?_, fun s => ?_, ?_⟩
  · obtain ⟨t, ht, he⟩ := exec_effect .crcchk s
    obtain ⟨hmatch, hmismatch, hframe⟩ := he.crcchk_frame
    exact ⟨t, ht, fun h => ⟨he.m_crcchk.trans (decide_eq_true h), hmatch h⟩,
      fun h => ⟨he.m_crcchk.trans (decide_eq_false h), hmismatch h⟩, he.reserved, hframe⟩
  · obtain ⟨t, ht, he⟩ := exec_effect .crcchk (s.setCks (enc s.crc))
    rw [execAll_cons (exec_crcenc s), execAll_singleton]
    exact ⟨t, ht, he.m_crcchk.trans (decide_eq_true rfl)⟩
  · obtain ⟨t, ht, he⟩ := exec_effect .crcchk State.reset
    exact ⟨t, ht, he.m_crcchk.trans (decide_eq_false State.reset_mismatch)⟩

/-- One CRCB for each octet folds `crc_byte` over the string (40_crc.md R86). -/
theorem execAll_crcb (octets : List Octet) (c : Crc16) (s : State) :
    execAll (octets.map .crcb) ((s.setCrc c).setM false) = .next ((s.setCrc (crcFrom c octets)).setM false) := by
  induction octets generalizing c with
  | nil => rfl
  | cons b octets ih =>
    rw [List.map_cons, execAll_cons (exec_crcb b _), State.setCrc_setM, State.setCrc_setCrc,
      State.setM_setM]
    exact ih (crcByte c b)

theorem execAll_crcclr_crcb (octets : List Octet) (s : State) :
    execAll (.crcclr :: octets.map .crcb) s = .next ((s.setCrc (crcOf octets)).setM false) := by
  rw [execAll_cons (exec_crcclr s)]
  exact execAll_crcb octets crcInit s

/-- Settles O19: CRCCLR makes the register what the fold starts from. -/
theorem crcOfIsTheFoldOfCrcb : Obligations.CrcOfIsTheFoldOfCrcb :=
  ⟨rfl, fun octets b => crcOf_append octets [b], fun octets s =>
    ⟨_, execAll_crcclr_crcb octets s, rfl, State.m_setM _ _, onlyMOfStatus_setM _ rfl,
      onlyChanges_setCrc_setM _ _ _⟩⟩

theorem execAll_ckld_all (a0 a1 a2 : Octet) (rest : List Instr) (s : State) :
    execAll (.ckld 0 a0 :: .ckld 1 a1 :: .ckld 2 a2 :: rest) s =
      execAll rest ((s.setCks #v[a0, a1, a2]).setM false) := by
  rw [execAll_cons (exec_ckld (by decide) a0 s), execAll_cons (exec_ckld (by decide) a1 _),
    execAll_cons (exec_ckld (by decide) a2 _), ← State.setCk_all]
  simp only [State.setCk_setM, State.setM_setM]

end Sys2Proof.Machine
end

section
/-! SUPPORT. The source's two functions as command sequences at the port (40_crc.md R88), and the host that
verifies a line with the second (70_reset_and_hazards.md R175, R179). -/

namespace Sys2Proof.Machine

/-! ### Sequences at the command port -/

theorem execAll_sameHostSide {script : List Instr} {s t : State} (h : execAll script s = .next t) :
    SameHostSide s t := by
  induction script generalizing s with
  | nil => cases h; exact sameHostSide_refl _
  | cons i script ih =>
    obtain ⟨u, hu, he⟩ := exec_effect i s
    rw [execAll_cons hu] at h
    obtain ⟨hp, hd, hr⟩ := he.sameHostSide
    obtain ⟨hp', hd', hr'⟩ := ih h
    exact ⟨hp'.trans hp, hd'.trans hd, hr'.trans hr⟩

/-- A reset block performs a sequence of well-formed commands by executing one after another. -/
theorem performs_issue {script : List Instr} {s t : State} (hr : s.wasReset = true)
    (hw : ∀ i ∈ script, WellFormed i) (h : execAll script s = .next t) : Performs (issue script) s t := by
  induction script generalizing s with
  | nil => cases h; exact performs_nil _
  | cons i script ih =>
    obtain ⟨u, hu, he⟩ := exec_effect i s
    obtain ⟨-, -, hreset⟩ := he.sameHostSide
    rw [execAll_cons hu] at h
    have hfirst := performs_command hr (decodeEncodeRoundTrip i (hw i List.mem_cons_self)) hu
    exact hfirst.append (ih (hreset.trans hr) (fun j hj => hw j (List.mem_cons_of_mem _ hj)) h)

/-! ### checksum and verify -/

/-- The sequence of the source's `checksum` (40_crc.md R88). -/
def checksumScript (octets : List Octet) : List Instr := .crcclr :: octets.map .crcb ++ [.crcenc]

/-- The sequence of the source's `verify` (40_crc.md R88). -/
def verifyScript (octets : List Octet) (a0 a1 a2 : Octet) : List Instr :=
  .crcclr :: octets.map .crcb ++ [.ckld 0 a0, .ckld 1 a1, .ckld 2 a2, .crcchk]

theorem wellFormed_checksumScript (octets : List Octet) : ∀ i ∈ checksumScript octets, WellFormed i := by
  simp [checksumScript, WellFormed, Instr.wellFormed, or_imp, forall_and]

theorem wellFormed_verifyScript (octets : List Octet) (a0 a1 a2 : Octet) :
    ∀ i ∈ verifyScript octets a0 a1 a2, WellFormed i := by
  simp [verifyScript, WellFormed, Instr.wellFormed, or_imp, forall_and]

theorem execAll_checksumScript (octets : List Octet) (s : State) :
    ∃ t, execAll (checksumScript octets) s = .next t ∧ t.ck = checksum octets := by
  rw [checksumScript, execAll_append (execAll_crcclr_crcb octets s), execAll_singleton, exec_crcenc]
  exact ⟨_, rfl, rfl⟩

theorem execAll_verifyScript (octets : List Octet) (a0 a1 a2 : Octet) (s : State) :
    ∃ t, execAll (verifyScript octets a0 a1 a2) s = .next t ∧
      (t.m = true ↔ checksum octets = #v[a0, a1, a2]) := by
  rw [verifyScript, execAll_append (execAll_crcclr_crcb octets s),
    execAll_ckld_all, execAll_singleton, State.setCks_setM, State.setM_setM]
  obtain ⟨t, ht, he⟩ := exec_effect .crcchk (((s.setCrc (crcOf octets)).setCks #v[a0, a1, a2]).setM false)
  exact ⟨t, ht, by rw [he.m_crcchk, decide_eq_true_iff]; exact eq_comm⟩

/-- Settles O21: the port performs the sequences by executing them. -/
theorem commandSequencesComputeChecksumAndVerify :
    Obligations.CommandSequencesComputeChecksumAndVerify := by
  refine fun s octets hr => ⟨?_, fun a0 a1 a2 => ?_⟩
  · obtain ⟨t, ht, hck⟩ := execAll_checksumScript octets s
    exact ⟨t, performs_issue hr (wellFormed_checksumScript octets) ht, hck⟩
  · obtain ⟨t, ht, hm⟩ := execAll_verifyScript octets a0 a1 a2 s
    exact ⟨t, performs_issue hr (wellFormed_verifyScript octets a0 a1 a2) ht, hm⟩

/-! ### The host that verifies a line -/

theorem expand_crcver (octets : List Octet) (a0 a1 a2 : Octet) :
    expand (.crcver octets [a0, a1, a2]) = some (verifyScript octets a0 a1 a2) := by
  simp [expand, ckldsScript, crcstrScript, verifyScript]

/-- A line that gets a script has a candidate of three characters, and the script is `verify` of the
characters before it (70_reset_and_hazards.md R175). -/
theorem incomingScript_eq_some {line : List Octet} {script : List Instr}
    (h : incomingScript line = some script) :
    ∃ a0 a1 a2, line.drop (line.length - 3) = [a0, a1, a2] ∧
      script = verifyScript (line.take (line.length - 3)) a0 a1 a2 := by
  unfold incomingScript at h
  split at h
  next hlen =>
    have hdrop : (line.drop (line.length - 3)).length = 3 := by rw [List.length_drop]; omega
    obtain ⟨a0, a1, a2, hcand⟩ := List.length_eq_three.mp hdrop
    rw [hcand, expand_crcver] at h
    exact ⟨a0, a1, a2, hcand, (Option.some.inj h).symm⟩
  next => cases h

/-- The host accepts on the STATUS it reads exactly if M is set (70_reset_and_hazards.md R179). -/
theorem frameAccepted_status (s : State) : frameAccepted (readPort s 0x07#8) = s.m := by
  show (s.status.setWidth 16).getLsbD 0 = s.status.getLsbD 0
  simp

/-- Settles O24: the script verifies the candidate of the line, and the READ after it returns M. -/
theorem hostAcceptsExactlyCheckedFrames : Obligations.HostAcceptsExactlyCheckedFrames := by
  intro s line script hr hscript
  obtain ⟨a0, a1, a2, hcand, rfl⟩ := incomingScript_eq_some hscript
  obtain ⟨t, ht, hm⟩ := execAll_verifyScript (line.take (line.length - 3)) a0 a1 a2 s
  obtain ⟨-, hdata, hreset⟩ := execAll_sameHostSide ht
  have hverify := performs_issue hr (wellFormed_verifyScript _ a0 a1 a2) ht
  refine ⟨_, readPort t 0x07#8, hverify.append (performs_read (hreset.trans hr) 0x07#8), ?_, ?_⟩
  · rw [performRead_readData, hdata]
  · rw [frameAccepted_status, hm, hcand, eq_comm, ← Vector.toList_inj]
    exact Iff.rfl

end Sys2Proof.Machine
end

section
/-! SUPPORT. The commands of the bit-packer family (41_packer.md R100 to R106): what each answers, the word
it is written as, and its frame. -/

namespace Sys2Proof.Machine

/-! ### What each command answers -/

theorem exec_nfset {n : Octet} (hn : n.toNat ≤ 8) (s : State) :
    exec (.nfset n) s = .next (s.setNf (n.extractLsb' 0 4)) := if_neg (Nat.not_lt.mpr hn)

theorem exec_mskld (r : MaskSel) (m : Octet) (s : State) : exec (.mskld r m) s = .next (s.setMask r m) := rfl

theorem exec_bset (r : MaskSel) {i : Nat} (hi : i ≤ 7) (b : Bool) (s : State) :
    exec (.bset r i b) s = .next (s.setMask r (setBoolAt (s.mask r) i b)) := if_pos hi

theorem exec_packr (s : State) : exec .packr s = .next (s.setTxts (packText s.rq s.cp s.nf.toNat)) := rfl

theorem exec_txtld {i : Nat} (hi : i ≤ 16) (c : Octet) (s : State) :
    exec (.txtld i c) s = .next (s.setTxt i c) := if_pos hi

/-- The separator is checked before any digit (41_packer.md R106). -/
theorem exec_unpackr_badSeparator {s : State} (h : txtAt s.txt 8 ≠ charAmp) :
    exec .unpackr s = .next (record .badSeparator s) := if_pos h

theorem exec_unpackr_badDigit {s : State} (hsep : txtAt s.txt 8 = charAmp)
    (hbad : ∃ i, i < s.nf.toNat ∧ (BadDigit (txtAt s.txt i) ∨ BadDigit (txtAt s.txt (9 + i)))) :
    exec .unpackr s = .next (record .badDigit s) :=
  (if_neg (not_not.mpr hsep)).trans (if_pos ((firstBadDigit_isSome_iff _ _).mpr hbad))

theorem exec_unpackr {s : State} (h : UnpackLegal s) : exec .unpackr s =
    .next (s.setMasks (unpackHalf s.txt 0 s.nf.toNat) (unpackHalf s.txt 9 s.nf.toNat)) := by
  obtain ⟨hsep, hdigits⟩ := h
  refine (if_neg (not_not.mpr hsep)).trans (if_neg ?_)
  rw [firstBadDigit_isSome_iff]
  rintro ⟨i, hi, hb⟩
  exact hb.elim (hdigits i hi).1 (hdigits i hi).2

/-! ### The words -/

/-- An index of 5 bits stands in a command word unchanged (30_encoding.md R60). -/
theorem commandWord_of_lt (op : Nat) {idx : Nat} (hidx : idx < 32) (imm : Octet) :
    commandWord op idx imm =
      (BitVec.ofNat 8 op).setWidth 32 <<< 24 ||| BitVec.ofNat 32 idx <<< 16 ||| imm.setWidth 32 := by
  have h : (BitVec.ofNat 5 idx).setWidth 32 = BitVec.ofNat 32 idx := by
    apply BitVec.eq_of_toNat_eq
    rw [BitVec.toNat_setWidth, BitVec.toNat_ofNat, BitVec.toNat_ofNat, Nat.mod_eq_of_lt hidx]
  rw [commandWord, h]

theorem encode_nfset (n : Octet) : encode (.nfset n) = 0x06000000#32 ||| n.setWidth 32 := by
  simp [encode, commandWord]

theorem encode_mskld (r : MaskSel) (m : Octet) : encode (.mskld r m) =
    0x07000000#32 ||| (BitVec.ofNat 32 r.number <<< 16) ||| m.setWidth 32 :=
  commandWord_of_lt 0x07 (r.number_le.trans_lt (by decide)) m

theorem bsetImm_setWidth (r : MaskSel) (b : Bool) : (bsetImm r b).setWidth 32 =
    (BitVec.ofNat 32 r.number <<< 1) ||| BitVec.ofNat 32 b.toNat := by
  cases r <;> cases b <;> decide

theorem encode_bset (r : MaskSel) {i : Nat} (hi : i ≤ 7) (b : Bool) : encode (.bset r i b) =
    0x08000000#32 ||| (BitVec.ofNat 32 i <<< 16) ||| (BitVec.ofNat 32 r.number <<< 1) |||
      BitVec.ofNat 32 b.toNat := by
  rw [encode, commandWord_of_lt 0x08 (by omega), bsetImm_setWidth, ← BitVec.or_assoc]
  rfl

theorem encode_txtld {i : Nat} (hi : i ≤ 16) (c : Octet) : encode (.txtld i c) =
    0x0A000000#32 ||| (BitVec.ofNat 32 i <<< 16) ||| c.setWidth 32 :=
  commandWord_of_lt 0x0A (by omega) c

/-! ### Frames -/

theorem onlyChanges_setNf (s : State) (n : BitVec 4) : OnlyChanges [0x06] s (s.setNf n) := by
  refine ⟨?_, rfl, rfl, rfl⟩
  apply readsSameExcept_of <;> simp

theorem onlyChanges_setMask (s : State) (r : MaskSel) (m : Octet) :
    OnlyChanges [maskAddress r] s (s.setMask r m) := by
  cases r with
  | rq =>
    refine ⟨?_, rfl, rfl, rfl⟩
    apply readsSameExcept_of <;> simp [maskAddress]
  | cp =>
    refine ⟨?_, rfl, rfl, rfl⟩
    apply readsSameExcept_of <;> simp [maskAddress]

theorem onlyChanges_setMasks (s : State) (a b : Octet) : OnlyChanges [0x04, 0x05] s (s.setMasks a b) := by
  refine ⟨?_, rfl, rfl, rfl⟩
  apply readsSameExcept_of <;> simp

theorem onlyChanges_setTxts (s : State) (v : Vector Octet 17) :
    OnlyChanges txtAddresses s (s.setTxts v) := by
  have htxt (i : Nat) (hi : i < 17) : 0x10 + i ∈ txtAddresses :=
    List.mem_range'.mpr ⟨i, hi, by rw [Nat.one_mul]⟩
  refine ⟨?_, rfl, rfl, rfl⟩
  apply readsSameExcept_of <;> simp +contextual [htxt]

theorem onlyChanges_setTxt (s : State) (i : Nat) (c : Octet) : OnlyChanges [0x10 + i] s (s.setTxt i c) := by
  have hother (j : Nat) (hj : j < 17) (h : 0x10 + j ∉ [0x10 + i]) :
      txtAt (s.txt.setIfInBounds i c) j = txtAt s.txt j := by
    have hne : i ≠ j := fun hij => h (hij ▸ List.mem_cons_self)
    rw [txtAt_set _ _ _ _ hj, if_neg hne]
  exact ⟨readsSameExcept_of (fun _ => rfl) (fun _ => rfl) (fun _ => rfl) (fun _ => rfl) (fun _ => rfl)
    (fun _ => rfl) (fun _ => rfl) (fun _ => rfl) hother, rfl, rfl, rfl⟩

end Sys2Proof.Machine
end

section
/-! SUPPORT. The text PACKR writes and the masks UNPACKR reads, position by position, and from them the
statements about each command of the family (41_packer.md R100 to R106, R110). -/

namespace Sys2Proof.Machine

/-! ### PACKR -/

section PackedText

variable (rq cp : Octet) (n : Nat) {i : Nat}

theorem packText_requested (hi : i ≤ 7) : (packText rq cp n)[i]? = some (digit rq n i) := by
  rw [packText_getElem? _ _ _ _ (by omega), packAt, if_pos (by omega)]

theorem packText_separator : (packText rq cp n)[8]? = some charAmp := packText_getElem? rq cp n 8 (by decide)

theorem packText_composite (hi : i ≤ 7) : (packText rq cp n)[9 + i]? = some (digit cp n i) := by
  rw [packText_getElem? _ _ _ _ (by omega), packAt, if_neg (by omega), if_neg (by omega),
    Nat.add_sub_cancel_left]

end PackedText

/-- Positions from the field count on are always `'0'` (41_packer.md R104). -/
theorem digit_of_le (mask : Octet) {n i : Nat} (h : n ≤ i) : digit mask n i = charZero := by
  simp [digit, Nat.not_lt.mpr h]

/-- A digit is decided by its own bit and by whether its position is below the field count
(41_packer.md R110). -/
theorem digit_congr {a b : Octet} {n k i : Nat} (hi : i ≤ 7) (hlt : i < n ↔ i < k)
    (hbit : i < n → a.getLsbD (7 - i) = b.getLsbD (7 - i)) : digit a n i = digit b k i := by
  rw [digit_eq _ _ _ hi, digit_eq _ _ _ hi]
  by_cases h : i < n
  · rw [hbit h]
    simp [h, hlt.mp h]
  · simp [h, hlt.not.mp h]

/-- Masks that agree below the field count are packed alike (41_packer.md R101). -/
theorem packText_congr {rq rq' cp cp' : Octet} {n : Nat}
    (hrq : ∀ i, i ≤ 7 → i < n → rq.getLsbD (7 - i) = rq'.getLsbD (7 - i))
    (hcp : ∀ i, i ≤ 7 → i < n → cp.getLsbD (7 - i) = cp'.getLsbD (7 - i)) :
    packText rq cp n = packText rq' cp' n := by
  apply Vector.ext
  intro j hj
  apply Option.some.inj
  rw [← Vector.getElem?_eq_getElem, ← Vector.getElem?_eq_getElem]
  rcases Nat.lt_trichotomy j 8 with h | rfl | h
  · rw [packText_requested _ _ _ (by omega), packText_requested _ _ _ (by omega),
      digit_congr (by omega) Iff.rfl (hrq j (by omega))]
  · rw [packText_separator, packText_separator]
  · obtain ⟨i, rfl⟩ := Nat.exists_eq_add_of_lt h
    rw [Nat.add_right_comm, packText_composite _ _ _ (by omega), packText_composite _ _ _ (by omega),
      digit_congr (by omega) Iff.rfl (hcp i (by omega))]

/-! ### UNPACKR -/

theorem isDigit_eq_true_iff (c : Octet) : isDigit c = true ↔ ¬ BadDigit c := by
  rw [← isDigit_eq_false_iff, Bool.not_eq_false]

/-- Whether UNPACKR accepts a text depends on TXT and NF alone (41_packer.md R106). -/
theorem UnpackLegal.congr {s t : State} (h : UnpackLegal s) (htxt : t.txt = s.txt) (hnf : t.nf = s.nf) :
    UnpackLegal t := by
  rw [UnpackLegal, htxt, hnf]
  exact h

/-- With no fields UNPACKR needs only the separator (41_packer.md R100). -/
theorem unpackLegal_of_nf_zero {s : State} (hnf : s.nf = 0#4) (hsep : txtAt s.txt 8 = charAmp) :
    UnpackLegal s :=
  ⟨hsep, fun i hi => by simp [hnf] at hi⟩

/-! ### The statements -/

/-- Settles O26: a mask is written as it is, and the packed text does not depend on the bits beyond the
field count. -/
theorem mskldLoadsAMask : Obligations.MskldLoadsAMask := by
  refine ⟨fun r m s => ⟨_, exec_mskld r m s, State.mask_setMask s r m, onlyChanges_setMask s r m,
    encode_mskld r m⟩, fun r m m' s h => ?_, fun w hop hidx => ?_⟩
  · rw [execAll_cons (exec_mskld r m s), execAll_cons (exec_mskld r m' s), execAll_singleton,
      execAll_singleton]
    refine ⟨_, _, exec_packr _, exec_packr _, ?_⟩
    cases r with
    | rq => exact packText_congr h fun _ _ _ => rfl
    | cp => exact packText_congr (fun _ _ _ => rfl) h
  · have hop' : (w.extractLsb 31 24).toNat = 0x07 := congrArg BitVec.toNat hop
    exact (decode_rejected_iff w).mpr (by unfold IllegalWord; tauto)

/-- Settles O28: PACKR writes TXT alone, with a digit at each position of either half. -/
theorem packrRendersBothMasks : Obligations.PackrRendersBothMasks := by
  refine ⟨by decide, fun s => ⟨_, exec_packr s, fun i hi => ?_, packText_separator _ _ _,
    fun i hi => ?_, onlyChanges_setTxts s _⟩⟩
  · rw [State.txt_setTxts, packText_requested _ _ _ hi, digit_eq _ _ _ hi]
  · rw [State.txt_setTxts, packText_composite _ _ _ hi, digit_eq _ _ _ hi]

/-- Settles O25: the count fits NF; what PACKR and UNPACKR make of counts 0 and 8 follows from what they make of
any count. -/
theorem nfsetBoundsTheFieldCount : Obligations.NfsetBoundsTheFieldCount := by
  refine ⟨fun n s hn => ⟨_, exec_nfset hn s, rfl, toNat_fieldCount hn, onlyChanges_setNf s _,
    encode_nfset n⟩, fun n s hn => ⟨_, if_pos hn, record_onlyRecords .badCount s⟩, fun s hnf => ?_,
    fun s hnf hsep => ⟨_, exec_unpackr (unpackLegal_of_nf_zero hnf hsep), State.err_setMasks _ _ _⟩,
    fun s hnf => ?_⟩
  · have hzero (mask : Octet) (i : Nat) : digit mask s.nf.toNat i = 0x30#8 :=
      digit_of_le mask (by simp [hnf])
    refine ⟨_, exec_packr s, fun j hj => ?_⟩
    rw [State.txt_setTxts, packText_getElem? _ _ _ _ hj, packAt, hzero, hzero]
    by_cases h : j = 8
    · subst h; rfl
    · rw [if_neg h, if_neg h, ite_self]
  · obtain ⟨-, hpack⟩ := packrRendersBothMasks
    obtain ⟨t, ht, hrq, -, hcp, -⟩ := hpack s
    refine ⟨t, ht, fun i hi => ?_⟩
    have hlt : i < s.nf.toNat := by rw [hnf]; exact Nat.lt_succ_of_le hi
    rw [hrq i hi, hcp i hi]
    simp only [hlt, true_and]

/-- Settles O27: BSET writes one bit, and a bit beyond the field count is neither packed nor unpacked. -/
theorem bsetSetsOnePosition : Obligations.BsetSetsOnePosition := by
  refine ⟨fun r i b s hi => ⟨_, exec_bset r hi b s, fun j hj => ?_, onlyChanges_setMask s r _,
    encode_bset r hi b⟩, fun r i b s hnf hi => ⟨?_, fun hlegal => ?_⟩,
    fun r i b s hi => ⟨_, if_neg (Nat.not_le.mpr hi), record_onlyRecords .illegalCommand s⟩,
    fun w hop himm => ?_⟩
  · rw [State.mask_setMask, setBoolAt_getLsbD _ _ _ _ (by omega) (by omega)]
  · rw [execAll_cons (exec_bset r hi b s), execAll_singleton]
    refine ⟨_, exec_packr _, by simp, ?_, ?_⟩
    · rw [State.txt_setTxts, packText_requested _ _ _ hi, digit_of_le _ (by simpa using hnf)]; rfl
    · rw [State.txt_setTxts, packText_composite _ _ _ hi, digit_of_le _ (by simpa using hnf)]; rfl
  · rw [execAll_cons (exec_bset r hi b s), execAll_singleton]
    have hlegal' := hlegal.congr (State.txt_setMask s r (setBoolAt (s.mask r) i b)) (State.nf_setMask s r _)
    refine ⟨_, exec_unpackr hlegal', by simp, ?_⟩
    have hclear (base : Nat) : (unpackHalf s.txt base s.nf.toNat).getLsbD (7 - i) = false := by
      rw [unpackHalf_getLsbD _ _ _ (unpackLegal_fieldCount hlegal) _ (by omega)]
      simp [Nat.not_lt.mpr hnf]
    cases r <;> simp [hclear]
  · have hop' : (w.extractLsb 31 24).toNat = 0x08 := congrArg BitVec.toNat hop
    exact (decode_rejected_iff w).mpr (by unfold IllegalWord; tauto)

/-- Settles O29: the index is checked before the write, which is of one octet. -/
theorem txtldLoadsOneOctet : Obligations.TxtldLoadsOneOctet := by
  refine ⟨fun i c s hi => ⟨_, exec_txtld hi c s, ?_, onlyChanges_setTxt s i c, encode_txtld hi c⟩,
    fun i c s hi => ⟨_, if_neg (Nat.not_le.mpr hi), record_onlyRecords .illegalCommand s⟩⟩
  rw [State.txt_setTxt, Vector.getElem?_setIfInBounds_self, if_pos (by omega)]

/-- Settles O30: one case for each way UNPACKR ends. -/
theorem unpackrDecodesTheText : Obligations.UnpackrDecodesTheText := by
  refine ⟨by decide, fun s => ⟨fun hsep => ?_, fun hsep hbad => ?_, fun hlegal => ?_⟩⟩
  · exact ⟨_, exec_unpackr_badSeparator hsep, record_onlyRecords .badSeparator s⟩
  · exact ⟨_, exec_unpackr_badDigit hsep hbad, record_onlyRecords .badDigit s⟩
  · have hn := unpackLegal_fieldCount hlegal
    refine ⟨_, exec_unpackr hlegal, fun i hi => ?_, fun i hi => ?_, onlyChanges_setMasks s _ _⟩
    · rw [State.rq_setMasks, unpackHalf_getLsbD _ _ _ hn _ (by omega), Nat.zero_add]
    · rw [State.cp_setMasks, unpackHalf_getLsbD _ _ _ hn _ (by omega)]

/-- Settles O31: the search goes through the first half, then through the second. -/
theorem badDigitIsTheLowestOffender : Obligations.BadDigitIsTheLowestOffender := by
  intro s j
  rw [firstBadDigit, examined, List.find?_append, Option.or_eq_some_iff, List.find?_range_eq_some,
    List.find?_range_eq_none, List.find?_map, Option.map_eq_some_iff]
  simp only [List.find?_range_eq_some, Function.comp_apply, Bool.not_not, Bool.not_eq_true', List.mem_range,
    isDigit_eq_false_iff, isDigit_eq_true_iff]
  constructor
  · rintro (⟨hbad, hj, hlow⟩ | ⟨hfirst, i, ⟨hbad, hi, hlow⟩, rfl⟩)
    · exact .inl ⟨hj, hbad, hlow⟩
    · exact .inr ⟨i, rfl, hi, hbad, hfirst, hlow⟩
  · rintro (⟨hj, hbad, hlow⟩ | ⟨i, rfl, hi, hbad, hfirst, hlow⟩)
    · exact .inl ⟨hbad, hj, hlow⟩
    · exact .inr ⟨hfirst, i, ⟨hbad, hi, hlow⟩, rfl⟩

/-- Settles O36: lane `i` of a text is one digit, and lane `i` of a mask one comparison. -/
theorem lanesAreIndependent : Obligations.LanesAreIndependent := by
  refine fun s s' i hi hlt => ⟨⟨_, _, exec_packr s, exec_packr s', fun hbit => ?_, fun hbit => ?_⟩,
    fun hlegal hlegal' => ?_⟩
  · rw [State.txt_setTxts, State.txt_setTxts, packText_requested _ _ _ hi, packText_requested _ _ _ hi,
      digit_congr hi hlt fun _ => hbit]
  · rw [State.txt_setTxts, State.txt_setTxts, packText_composite _ _ _ hi, packText_composite _ _ _ hi,
      digit_congr hi hlt fun _ => hbit]
  · obtain ⟨-, hunpack⟩ := unpackrDecodesTheText
    obtain ⟨-, -, hs⟩ := hunpack s
    obtain ⟨-, -, hs'⟩ := hunpack s'
    obtain ⟨t, ht, hrq, hcp, -⟩ := hs hlegal
    obtain ⟨t', ht', hrq', hcp', -⟩ := hs' hlegal'
    refine ⟨t, t', ht, ht', fun hoctet => ?_, fun hoctet => ?_⟩
    · rw [hrq i hi, hrq' i hi, txtAt, txtAt, hoctet, decide_eq_decide.mpr hlt]
    · rw [hcp i hi, hcp' i hi, txtAt, txtAt, hoctet, decide_eq_decide.mpr hlt]

end Sys2Proof.Machine
end

section
/-! SUPPORT. The digit string of a mask (41_packer.md R107), the round trip through it (R108), and what the
field order means to it (R109). -/

namespace Sys2Proof.Machine

/-! ### A mask under the field count -/

/-- `topmask(n)` holds the first `n` positions (41_packer.md R107). -/
theorem topmask_getLsbD {n i : Nat} (hn : n ≤ 8) (hi : i ≤ 7) :
    (topmask n).getLsbD (7 - i) = decide (i < n) := by
  rw [topmask, BitVec.getLsbD_shiftLeft, show (0xFF#8) = BitVec.allOnes 8 from rfl, BitVec.getLsbD_allOnes,
    decide_eq_true (show 7 - i < 8 by omega), decide_eq_true (show 7 - i - (8 - n) < 8 by omega),
    Bool.true_and, Bool.and_true, ← decide_not, decide_eq_decide]
  omega

theorem and_topmask_getLsbD (mask : Octet) {n i : Nat} (hn : n ≤ 8) (hi : i ≤ 7) :
    (mask &&& topmask n).getLsbD (7 - i) = (decide (i < n) && mask.getLsbD (7 - i)) := by
  rw [BitVec.getLsbD_and, topmask_getLsbD hn hi, Bool.and_comm]

/-- A position shows `'1'` exactly where the mask under the field count has its bit set. -/
theorem digit_eq_charOne_iff (mask : Octet) {n i : Nat} (hn : n ≤ 8) (hi : i ≤ 7) :
    digit mask n i = 0x31#8 ↔ (mask &&& topmask n).getLsbD (7 - i) = true := by
  rw [and_topmask_getLsbD mask hn hi, digit_eq _ _ _ hi, Bool.and_eq_true, decide_eq_true_iff]
  split
  next h => exact iff_of_true rfl h
  next h => exact iff_of_false (by decide) h

theorem not_badDigit_digit (mask : Octet) (n i : Nat) : ¬ BadDigit (digit mask n i) := by
  rw [← isDigit_eq_true_iff, digit]
  split <;> rfl

/-! ### The numeral -/

/-- The number a text of digits spells in binary, its first character the highest place. -/
def binaryNumeral (text : List Octet) : Nat :=
  text.foldl (fun acc c => 2 * acc + if c = 0x31#8 then 1 else 0) 0

theorem binaryNumeral_concat (text : List Octet) (c : Octet) :
    binaryNumeral (text ++ [c]) = 2 * binaryNumeral text + if c = 0x31#8 then 1 else 0 := by
  rw [binaryNumeral, List.foldl_append]
  rfl

/-- A bit more is a place more: the number above bit `k` doubled, and bit `k`. -/
theorem shiftRight_eq_two_mul_add_testBit (x k : Nat) :
    x >>> k = 2 * (x >>> (k + 1)) + if x.testBit k = true then 1 else 0 := by
  have hbit : (if x.testBit k = true then 1 else 0) = (x >>> k) % 2 := by
    rw [Nat.shiftRight_eq_div_pow, ← Nat.toNat_testBit]
    cases x.testBit k <;> rfl
  rw [hbit, Nat.shiftRight_succ]
  omega

/-- The first `k` digits spell the high `k` bits of the mask under the field count. -/
theorem binaryNumeral_take_digits (mask : Octet) {n k : Nat} (hn : n ≤ 8) (hk : k ≤ 8) :
    binaryNumeral ((List.range k).map (digit mask n)) = (mask &&& topmask n).toNat >>> (8 - k) := by
  induction k with
  | zero => exact (Nat.shiftRight_eq_zero _ _ (BitVec.isLt _)).symm
  | succ k ih =>
    rw [List.range_succ, List.map_append, List.map_singleton, binaryNumeral_concat, ih (by omega),
      shiftRight_eq_two_mul_add_testBit _ (8 - (k + 1)), show 8 - (k + 1) + 1 = 8 - k by omega,
      show 8 - (k + 1) = 7 - k by omega]
    simp only [digit_eq_charOne_iff mask hn (show k ≤ 7 by omega)]
    rfl

theorem packText_toList (rq cp : Octet) (n : Nat) :
    (packText rq cp n).toList = digits rq n ++ 0x26#8 :: digits cp n := rfl

/-- Settles O32: the numeral of all 8 digits is the whole mask under the field count. -/
theorem digitStringSpellsTheMask : Obligations.DigitStringSpellsTheMask := by
  refine ⟨fun mask n hn => ⟨?_, binaryNumeral_take_digits mask hn le_rfl, ?_⟩,
    fun rq cp n _ => packText_toList rq cp n, by decide, by decide, by decide⟩
  · refine List.map_congr_left fun i hi => digit_eq mask n i ?_
    exact Nat.le_of_lt_succ (List.mem_range.mp hi)
  · interval_cases n <;> rfl

/-! ### PACKR, then UNPACKR -/

/-- UNPACKR reads a half that holds the digits of a mask as the mask under the field count. -/
theorem unpackHalf_of_digits {txt : Vector Octet 17} {base n : Nat} {mask : Octet} (hn : n ≤ 8)
    (h : ∀ i, i ≤ 7 → txt[base + i]? = some (digit mask n i)) :
    unpackHalf txt base n = mask &&& topmask n := by
  refine mask_ext fun i hi => ?_
  have hi' : i ≤ 7 := by omega
  have hdigit : txtAt txt (base + i) = digit mask n i := by rw [txtAt, h i hi']; rfl
  have hone : decide (digit mask n i = 0x31#8) = (mask &&& topmask n).getLsbD (7 - i) := by
    rw [Bool.eq_iff_iff, decide_eq_true_iff, digit_eq_charOne_iff mask hn hi']
  rw [unpackHalf_getLsbD _ _ _ hn _ hi, hdigit, hone, and_topmask_getLsbD mask hn hi', ← Bool.and_assoc,
    Bool.and_self]

/-- The text that PACKR writes is accepted by UNPACKR under the same count (41_packer.md R108). -/
theorem unpackLegal_of_packText {s : State} {rq cp : Octet} (hn : s.nf.toNat ≤ 8)
    (htxt : s.txt = packText rq cp s.nf.toNat) : UnpackLegal s := by
  refine ⟨?_, fun i hi => ⟨?_, ?_⟩⟩
  · rw [htxt, txtAt, packText_separator]; rfl
  · rw [htxt, txtAt, packText_requested _ _ _ (by omega)]
    exact not_badDigit_digit _ _ _
  · rw [htxt, txtAt, packText_composite _ _ _ (by omega)]
    exact not_badDigit_digit _ _ _

/-- UNPACKR on a text that PACKR wrote under the same count (41_packer.md R108). -/
theorem exec_unpackr_packText {s : State} {rq cp : Octet} (hn : s.nf.toNat ≤ 8)
    (htxt : s.txt = packText rq cp s.nf.toNat) : exec .unpackr s =
      .next (s.setMasks (rq &&& topmask s.nf.toNat) (cp &&& topmask s.nf.toNat)) := by
  rw [exec_unpackr (unpackLegal_of_packText hn htxt), htxt,
    unpackHalf_of_digits hn fun i hi => by rw [Nat.zero_add, packText_requested _ _ _ hi],
    unpackHalf_of_digits hn fun i hi => packText_composite _ _ _ hi]

/-- `mask_of` sets no bit beyond its fields (41_packer.md R103). -/
theorem maskOf_and_topmask (order : List FieldName) (v : FieldName → Bool) (h : order.length ≤ 8) :
    maskOf order v &&& topmask order.length = maskOf order v := by
  refine mask_ext fun i hi => ?_
  rw [and_topmask_getLsbD _ h (by omega), maskOfPlacesEachField order v h i (by omega)]
  by_cases hlt : i < order.length
  · simp [hlt]
  · simp [List.getElem?_eq_none (Nat.le_of_not_lt hlt)]

/-- Settles O33: a mask that `mask_of` built has nothing that `topmask` could clear. -/
theorem packUnpackRoundTrip : Obligations.PackUnpackRoundTrip := by
  intro s hr hn
  have hexec : execAll [.packr, .unpackr] s = .next ((s.setTxts (packText s.rq s.cp s.nf.toNat)).setMasks
      (s.rq &&& topmask s.nf.toNat) (s.cp &&& topmask s.nf.toNat)) := by
    rw [execAll_cons (exec_packr s), execAll_singleton]
    exact exec_unpackr_packText hn rfl
  refine ⟨_, performs_issue hr (by simp [WellFormed, Instr.wellFormed]) hexec, by simp, rfl, rfl,
    fun p kind requested composite _ hnf hrq hcp => ?_⟩
  rw [nfOf] at hnf
  rw [State.rq_setMasks, State.cp_setMasks, hrq, hcp, hnf]
  exact ⟨maskOf_and_topmask _ _ (hnf ▸ hn), maskOf_and_topmask _ _ (hnf ▸ hn)⟩

/-! ### The order of the fields -/

/-- Equal digit strings come of masks that agree below the field count. -/
theorem getLsbD_eq_of_digits_eq {a b : Octet} {n i : Nat} (hn : n ≤ 8) (h : digits a n = digits b n)
    (hi : i ≤ 7) (hlt : i < n) : a.getLsbD (7 - i) = b.getLsbD (7 - i) := by
  have hdigit : digit a n i = digit b n i :=
    List.map_inj_left.mp h i (List.mem_range.mpr (Nat.lt_succ_of_le hi))
  have hone : digit a n i = 0x31#8 ↔ digit b n i = 0x31#8 := by rw [hdigit]
  rwa [digit_eq_charOne_iff a hn hi, digit_eq_charOne_iff b hn hi, ← Bool.eq_iff_iff,
    and_topmask_getLsbD a hn hi, and_topmask_getLsbD b hn hi, decide_eq_true hlt, Bool.true_and,
    Bool.true_and] at hone

/-- A list with the elements at `p` and `q` exchanged, position by position. -/
theorem getElem?_swap {α : Type} (l : List α) {p q : Nat} (hp : p < l.length) (hq : q < l.length) (i : Nat) :
    ((l.set p l[q]).set q l[p])[i]? = l[if i = p then q else if i = q then p else i]? := by
  rw [List.getElem?_set, List.getElem?_set, List.length_set]
  by_cases hiq : i = q
  · subst hiq
    by_cases hip : i = p
    · subst hip; simp [hq]
    · simp [hip, hp, hq]
  · by_cases hip : i = p
    · subst hip; simp [Ne.symm hiq, hp, hq]
    · simp [hip, hiq, Ne.symm hip, Ne.symm hiq]

/-- Settles O35: `mask_of` reads the order position by position, and a swap exchanges two of them. -/
theorem fieldOrderCarriesMeaning : Obligations.FieldOrderCarriesMeaning := by
  intro order v p q hq hpq hlen swapped
  have hp : p < order.length := hpq.trans hq
  have hbits (i : Nat) (hi : i ≤ 7) : (maskOf swapped v).getLsbD (7 - i) =
      (maskOf order v).getLsbD (7 - (if i = p then q else if i = q then p else i)) := by
    rw [maskOfPlacesEachField swapped v (by simpa [swapped] using hlen) i hi,
      maskOfPlacesEachField order v hlen _ (by split <;> [omega; split <;> omega]), getElem?_swap order hp hq]
  have hbit (i : Nat) (hi : i < order.length) : (maskOf order v).getLsbD (7 - i) = v order[i] := by
    rw [maskOfPlacesEachField order v hlen i (by omega), List.getElem?_eq_getElem hi]
    rfl
  refine ⟨hbits, fun hne hdigits => hne ?_, fun heq => mask_ext fun i hi => ?_⟩
  · have hsame := getLsbD_eq_of_digits_eq hlen hdigits (show p ≤ 7 by omega) hp
    rw [hbits p (by omega), if_pos rfl, hbit q hq, hbit p hp] at hsame
    exact hsame.symm
  · rw [hbits i (by omega)]
    by_cases hip : i = p
    · rw [if_pos hip, hip, hbit q hq, hbit p hp, heq]
    · by_cases hiq : i = q
      · rw [if_neg hip, if_pos hiq, hiq, hbit q hq, hbit p hp, heq]
      · rw [if_neg hip, if_neg hiq]

end Sys2Proof.Machine
end

section
/-! SUPPORT. The host's scripts that pack and unpack a settings block (70_reset_and_hazards.md R173, R176,
R178), and the way of a block's settings through them from one block to another. -/

namespace Sys2Proof.Machine

/-! ### The parameters -/

/-- The field count of a kind fits the slots of a digit string (00_scope.md R8). -/
theorem nfOf_le {p : HostParams} (hp : paramsLegal p = true) (kind : SettingsKind) : nfOf p kind ≤ 8 := by
  rw [paramsLegal, Bool.and_eq_true, decide_eq_true_iff, decide_eq_true_iff] at hp
  obtain ⟨hprecipitation, hsupervisor⟩ := hp
  cases kind with
  | ptu => exact (show 4 ≤ 8 by decide)
  | precipitation => exact hprecipitation
  | supervisor => exact hsupervisor

/-- NFSET with the field count of a kind leaves that count in NF. -/
theorem exec_nfset_nfOf {p : HostParams} (hp : paramsLegal p = true) (kind : SettingsKind) (s : State) :
    ∃ n : BitVec 4, exec (.nfset (BitVec.ofNat 8 (nfOf p kind))) s = .next (s.setNf n) ∧
      n.toNat = nfOf p kind := by
  have hn := nfOf_le hp kind
  have hcount : (BitVec.ofNat 8 (nfOf p kind)).toNat = nfOf p kind := Nat.mod_eq_of_lt (by omega)
  exact ⟨_, exec_nfset (hcount.trans_le hn) s, (toNat_fieldCount (hcount.trans_le hn)).trans hcount⟩

/-! ### Packing -/

theorem wellFormed_packScript (p : HostParams) (kind : SettingsKind) (requested composite : FieldName → Bool) :
    ∀ i ∈ packScript p kind requested composite, WellFormed i := by
  simp [packScript, WellFormed, Instr.wellFormed]

/-- The pack script leaves the text of the two vectors' masks (70_reset_and_hazards.md R176). -/
theorem execAll_packScript {p : HostParams} (hp : paramsLegal p = true) (kind : SettingsKind)
    (requested composite : FieldName → Bool) (s : State) :
    ∃ t, execAll (packScript p kind requested composite) s = .next t ∧
      t.txt = packText (maskOf (fieldOrder p kind) requested) (maskOf (fieldOrder p kind) composite)
        (nfOf p kind) := by
  obtain ⟨n, hnfset, hn⟩ := exec_nfset_nfOf hp kind s
  rw [packScript, execAll_cons hnfset, execAll_cons (exec_mskld _ _ _), execAll_cons (exec_mskld _ _ _),
    execAll_singleton, exec_packr]
  exact ⟨_, rfl, by simp [hn]⟩

/-! ### Loading a text -/

/-- The commands of `TXTLDS`: one TXTLD for each character (30_encoding.md R69). -/
def loadScript (text : List Octet) : List Instr := text.zipIdx.map fun ci => .txtld ci.2 ci.1

theorem txtldsScript_of_le {text : List Octet} (h : text.length ≤ 17) :
    txtldsScript text = some (loadScript text) := if_pos h

theorem loadScript_concat (text : List Octet) (c : Octet) :
    loadScript (text ++ [c]) = loadScript text ++ [.txtld text.length c] := by
  simp [loadScript, List.zipIdx_append]

theorem wellFormed_loadScript {text : List Octet} (h : text.length ≤ 17) :
    ∀ i ∈ loadScript text, WellFormed i := by
  intro i hi
  obtain ⟨⟨c, k⟩, hmem, rfl⟩ := List.mem_map.mp hi
  have hk := (List.mem_zipIdx' hmem).1
  exact decide_eq_true (show k ≤ 16 by omega)

/-- The loads write the characters to TXT from octet 0 on, and no other register (41_packer.md R105). -/
theorem execAll_loadScript {text : List Octet} (h : text.length ≤ 17) (s : State) :
    ∃ v : Vector Octet 17, execAll (loadScript text) s = .next (s.setTxts v) ∧
      ∀ i, i < text.length → v[i]? = text[i]? := by
  induction text using List.reverseRecOn with
  | nil => exact ⟨s.txt, rfl, fun i hi => absurd hi (Nat.not_lt_zero i)⟩
  | append_singleton text c ih =>
    rw [List.length_append, List.length_singleton] at h
    obtain ⟨v, hexec, hv⟩ := ih (by omega)
    refine ⟨v.setIfInBounds text.length c, ?_, fun i hi => ?_⟩
    · rw [loadScript_concat, execAll_append hexec, execAll_singleton, exec_txtld (by omega)]
      rfl
    · rw [List.length_append, List.length_singleton] at hi
      rcases Nat.eq_or_lt_of_le (Nat.le_of_lt_succ hi) with rfl | hlt
      · rw [Vector.getElem?_setIfInBounds_self, if_pos (by omega), List.getElem?_concat_length]
      · rw [Vector.getElem?_setIfInBounds_ne (by omega), hv i hlt, List.getElem?_append_left hlt]

/-- A text of 17 characters loaded is all of TXT. -/
theorem execAll_loadScript_toList (txt : Vector Octet 17) (s : State) :
    execAll (loadScript txt.toList) s = .next (s.setTxts txt) := by
  obtain ⟨v, hexec, hv⟩ := execAll_loadScript (Nat.le_of_eq txt.length_toList) s
  have hvtxt : v = txt := by
    apply Vector.ext
    intro i hi
    have hget := hv i (by rwa [Vector.length_toList])
    rw [Vector.getElem?_toList, Vector.getElem?_eq_getElem hi, Vector.getElem?_eq_getElem hi] at hget
    exact Option.some.inj hget
  rw [hexec, hvtxt]

/-! ### Unpacking -/

/-- The script of a text whose separator stands (70_reset_and_hazards.md R178). -/
theorem unpackScript_toList (p : HostParams) (kind : SettingsKind) {txt : Vector Octet 17}
    (hsep : txt[8]? = some charAmp) : unpackScript p kind txt.toList =
      some (.nfset (BitVec.ofNat 8 (nfOf p kind)) :: loadScript txt.toList ++ [.unpackr]) := by
  rw [unpackScript, if_pos ⟨txt.length_toList, Vector.getElem?_toList.trans hsep⟩,
    txtldsScript_of_le (Nat.le_of_eq txt.length_toList), Option.map_some]

theorem wellFormed_unpackScript (n : Octet) (txt : Vector Octet 17) :
    ∀ i ∈ .nfset n :: loadScript txt.toList ++ [.unpackr], WellFormed i := by
  have hload := wellFormed_loadScript (Nat.le_of_eq txt.length_toList)
  simp only [List.cons_append, List.mem_cons, List.mem_append, List.not_mem_nil, or_false, or_imp,
    forall_and, forall_eq]
  exact ⟨rfl, hload, rfl⟩

/-- The unpack script of a packed text leaves the masks it was packed from and records no error
(70_reset_and_hazards.md R178; 41_packer.md R108). -/
theorem execAll_unpackScript {p : HostParams} (hp : paramsLegal p = true) (kind : SettingsKind) (rq cp : Octet)
    (s : State) :
    ∃ u, execAll (.nfset (BitVec.ofNat 8 (nfOf p kind)) ::
        loadScript (packText rq cp (nfOf p kind)).toList ++ [.unpackr]) s = .next u ∧ u.err = s.err ∧
      u.rq = rq &&& topmask (nfOf p kind) ∧ u.cp = cp &&& topmask (nfOf p kind) := by
  obtain ⟨n, hnfset, hn⟩ := exec_nfset_nfOf hp kind s
  have hle := nfOf_le hp kind
  rw [← hn] at hle ⊢
  rw [List.cons_append, execAll_cons (hn ▸ hnfset), execAll_append (execAll_loadScript_toList _ _),
    execAll_singleton, exec_unpackr_packText (s := (s.setNf n).setTxts (packText rq cp n.toNat)) hle rfl]
  exact ⟨_, rfl, rfl, rfl, rfl⟩

/-- Settles O37: the text that travels is the packed text of two masks that `mask_of` built. -/
theorem settingsTravelBetweenBlocks : Obligations.SettingsTravelBetweenBlocks := by
  intro p kind requested composite s r hp hs hr
  obtain ⟨t, ht, htxt⟩ := execAll_packScript hp kind requested composite s
  obtain ⟨u, hu, herr, hrq, hcp⟩ := execAll_unpackScript hp kind (maskOf (fieldOrder p kind) requested)
    (maskOf (fieldOrder p kind) composite) r
  rw [← htxt] at hu
  refine ⟨t, _, u, performs_issue hs (wellFormed_packScript p kind requested composite) ht,
    unpackScript_toList p kind (htxt ▸ packText_separator _ _ _),
    performs_issue hr (wellFormed_unpackScript _ t.txt) hu, herr, hrq.trans ?_, hcp.trans ?_⟩
  · exact maskOf_and_topmask _ _ (nfOf_le hp kind)
  · exact maskOf_and_topmask _ _ (nfOf_le hp kind)

end Sys2Proof.Machine
end

section
/-! SUPPORT. ERRCLR (42_status.md R130): its effect on STATUS, and the words of its opcode. -/

namespace Sys2Proof.Machine

open Laws.EncodesItsOpcode (opcode)

theorem exec_errclr (s : State) : exec .errclr s = .next (clearError s) := rfl

theorem onlyChanges_setErr (s : State) (e : BitVec 4) : OnlyChanges [0x07] s (s.setErr e) := by
  refine ⟨?_, rfl, rfl, rfl⟩
  apply readsSameExcept_of <;> simp

/-- No other command has the opcode of ERRCLR (30_encoding.md R62). -/
theorem eq_errclr_of_opcode {i : Instr} (h : opcode i = 0x0C#8) : i = .errclr := by
  cases i with
  | errclr => rfl
  | _ => simp [opcode] at h

/-- ERRCLR has no operands, so its opcode has one legal word (30_encoding.md R64). -/
theorem illegalWord_of_malformed_errclr {w : CommandWord} (hop : opField w = 0x0C#8)
    (hne : w ≠ encode .errclr) : IllegalWord w := by
  by_contra hlegal
  obtain ⟨i, hd⟩ := (not_illegalWord_iff w).mp hlegal
  obtain rfl := eq_errclr_of_opcode ((opField_of_decode hd).symm.trans hop)
  obtain ⟨-, hw⟩ := encodeDecodeRoundTrip w .errclr hd
  exact hne hw.symm

theorem encode_errclr : encode .errclr = 0x0C000000#32 := by decide

/-- Settles O38: ERRCLR writes ERR alone, and a malformed word of its opcode is illegal. -/
theorem errclrClearsTheError : Obligations.ErrclrClearsTheError := by
  refine ⟨encode_errclr, fun s => ?_, fun s w rest hr hp hop hne => ?_⟩
  · exact ⟨_, exec_errclr s, State.err_setErr s _, State.m_setErr s _, State.reserved_setErr s _,
      onlyChanges_setErr s _, clearError_of_noError⟩
  · obtain ⟨-, -, hillegal⟩ := illegalWordsRecordIllegalCommand
    have hw := illegalWord_of_malformed_errclr hop (encode_errclr ▸ hne)
    obtain ⟨t, ht, ⟨herr, -⟩, -⟩ := hillegal s w rest hr hp hw
    exact ⟨t, ht, herr⟩

end Sys2Proof.Machine
end

section
/-! SUPPORT. The errors of 60_exceptions.md: a command that raises one records it and does nothing else,
and the first error is kept until ERRCLR. -/

namespace Sys2Proof.Machine

/-- Every error but CRCCHK's is recorded and nothing else happens (60_exceptions.md R142), case by case as
R145 orders the checks. -/
theorem exec_onlyRecords_of_raises {i : Instr} {s : State} {code : BitVec 4} (hr : Raises i s code)
    (hi : i ≠ .crcchk) : ∃ t, exec i s = .next t ∧ OnlyRecords code s t := by
  cases hr with
  | illegalOperand _ _ hw => exact illFormedCommandsAreIllegal i s hw
  | badCount n _ hn => exact ⟨_, if_pos hn, record_onlyRecords .badCount s⟩
  | badSeparator _ hsep => exact ⟨_, exec_unpackr_badSeparator hsep, record_onlyRecords .badSeparator s⟩
  | badDigit _ j hsep hj hbad =>
    exact ⟨_, exec_unpackr_badDigit hsep ⟨j, hj, hbad⟩, record_onlyRecords .badDigit s⟩
  | invalidChecksum => exact absurd rfl hi

/-- CRCCHK raises one error, the mismatch (40_crc.md R85). -/
theorem raises_crcchk {s : State} {code : BitVec 4} (hr : Raises .crcchk s code) :
    code = 5#4 ∧ s.ck ≠ enc s.crc := by
  cases hr with
  | illegalOperand _ _ hw => exact absurd rfl hw
  | invalidChecksum _ h => exact ⟨rfl, h⟩

/-- A command that raises no error writes ERR only if it is ERRCLR (60_exceptions.md R142, R147). -/
theorem ExecEffect.err_of_not_raises {i : Instr} {s t : State} (he : ExecEffect s i t)
    (hno : ∀ code, ¬ Raises i s code) : t.err = if i = .errclr then 0#4 else s.err := by
  cases he with
  | raised _ e hr _ => exact absurd hr (hno e.code)
  | crcchkMismatch h => exact absurd (.invalidChecksum s h) (hno 5#4)
  | _ => simp

/-- The first error is kept by every command but ERRCLR (60_exceptions.md R142). -/
theorem ExecEffect.err_kept {i : Instr} {s t : State} (he : ExecEffect s i t) (hi : i ≠ .errclr)
    (herr : s.err ≠ 0#4) : t.err = s.err := by
  cases he with
  | errclr => exact absurd rfl hi
  | raised | crcchkMismatch => simp [herr]
  | _ => simp

/-- Settles O39: CRCCHK's mismatch apart, an error is recorded alone, and ERR has no other writer but ERRCLR. -/
theorem errorsAreRecordedOnceAndDoNothingElse : Obligations.ErrorsAreRecordedOnceAndDoNothingElse := by
  refine ⟨fun i s code hr => ?_, fun i s t hno h => (effect_of_exec h).err_of_not_raises hno,
    fun i s t h => (effect_of_exec h).err_kept⟩
  by_cases hi : i = .crcchk
  · subst hi
    obtain ⟨rfl, hne⟩ := raises_crcchk hr
    obtain ⟨t, ht, he⟩ := exec_effect .crcchk s
    obtain ⟨-, hmismatch, hframe⟩ := he.crcchk_frame
    exact ⟨t, ht, hmismatch hne, he.reserved, hframe, he.m_crcchk.trans (decide_eq_false hne)⟩
  · obtain ⟨t, ht, ⟨herr, hm, hres⟩, hframe⟩ := exec_onlyRecords_of_raises hr hi
    exact ⟨t, ht, herr, hres, hframe, hm.trans (if_neg hi).symm⟩

end Sys2Proof.Machine
end

section
/-! SUPPORT. The CRC unit and the bit-packer do not see each other (40_crc.md, 41_packer.md): a command of
either unit acts through that unit's registers, and carries every other register along. -/

namespace Sys2Proof.Machine

/-! ### The registers of each unit -/

/-- `s` with the registers of the CRC unit, CRC, CK and STATUS, as `u` has them. -/
def State.withCrcUnit (s u : State) : State := { s with crc := u.crc, ck := u.ck, status := u.status }

/-- `s` with the registers of the bit-packer, RQ, CP, NF, TXT and the field ERR, as `u` has them. -/
def State.withPacker (s u : State) : State :=
  { s with rq := u.rq, cp := u.cp, nf := u.nf, txt := u.txt, status := statusWithErr s.status u.err }

@[simp] theorem State.err_withPacker (s u : State) : (s.withPacker u).err = u.err := statusErr_withErr _ _
@[simp] theorem State.m_withPacker (s u : State) : (s.withPacker u).m = s.m := statusM_withErr _ _

theorem State.withCrcUnit_of_eq {s u : State} (hcrc : u.crc = s.crc) (hck : u.ck = s.ck)
    (hst : u.status = s.status) : s.withCrcUnit u = s := by
  rw [State.withCrcUnit, hcrc, hck, hst]

/-- STATUS with ERR written as it is. -/
theorem statusWithErr_statusErr (st : Octet) : statusWithErr st (statusErr st) = st :=
  status_ext (by simp) (by simp) (by simp)

/-- STATUS with ERR written twice holds the later ERR. -/
theorem statusWithErr_withErr (st : Octet) (d e : BitVec 4) :
    statusWithErr (statusWithErr st d) e = statusWithErr st e :=
  status_ext (by simp) (by simp) (by simp)

theorem State.withPacker_of_eq {s u : State} (hrq : u.rq = s.rq) (hcp : u.cp = s.cp) (hnf : u.nf = s.nf)
    (htxt : u.txt = s.txt) (herr : u.err = s.err) : s.withPacker u = s := by
  rw [State.withPacker, hrq, hcp, hnf, htxt, herr, ← statusErr_status, statusWithErr_statusErr]

/-! ### Both units record errors: ERR is read and written by either -/

theorem record_withCrcUnit (e : ErrorKind) (s u : State) :
    record e (s.withCrcUnit u) = s.withCrcUnit (record e u) := by
  have herr : (s.withCrcUnit u).err = u.err := rfl
  rw [record, record, herr]
  split <;> rfl

theorem State.setErr_withPacker (s u : State) (e : BitVec 4) :
    (s.withPacker u).setErr e = s.withPacker (u.setErr e) := by
  simp [State.withPacker, State.setErr, statusWithErr_withErr]

theorem record_withPacker (e : ErrorKind) (s u : State) :
    record e (s.withPacker u) = s.withPacker (record e u) := by
  rw [record, record, State.err_withPacker, State.setErr_withPacker]
  split <;> rfl

/-! ### A command acts through the registers of its unit -/

/-- A CRC command given the CRC unit of `u` does what it does on `u`, whatever else the state holds. -/
theorem exec_withCrcUnit {i : Instr} (hi : inCrcFamily i = true) (s u : State) :
    exec i (s.withCrcUnit u) = mapNext s.withCrcUnit (exec i u) := by
  cases i with
  | crcclr | crcb | crcenc => rfl
  | ckld k c =>
    simp only [exec, execCkld, raiseError, record_withCrcUnit, mapNext_ite]
    rfl
  | crcchk =>
    have hm : (s.withCrcUnit u).setM false = s.withCrcUnit (u.setM false) := rfl
    simp only [exec, execCrcchk, raiseError, hm, record_withCrcUnit, mapNext_ite]
    rfl
  | _ => cases hi

/-- A packer command given the bit-packer of `u` does what it does on `u`, whatever else the state holds. -/
theorem exec_withPacker {i : Instr} (hi : inPackerFamily i = true) (s u : State) :
    exec i (s.withPacker u) = mapNext s.withPacker (exec i u) := by
  cases i with
  | packr => rfl
  | mskld r m => cases r <;> rfl
  | nfset n =>
    simp only [exec, execNfset, raiseError, record_withPacker, mapNext_ite]
    rfl
  | bset r p b =>
    simp only [exec, execBset, raiseError, record_withPacker, mapNext_ite]
    cases r <;> rfl
  | txtld p c =>
    simp only [exec, execTxtld, raiseError, record_withPacker, mapNext_ite]
    rfl
  | unpackr =>
    simp only [exec, execUnpackr, raiseError, record_withPacker, mapNext_ite]
    rfl
  | _ => cases hi

/-- A CRC command on two states: what it does on `s` it does on `s'` once `s'` has the CRC unit of `s`. -/
theorem exec_withCrcUnit_next {i : Instr} (hi : inCrcFamily i = true) {s t : State} (h : exec i s = .next t)
    (s' : State) : exec i (s'.withCrcUnit s) = .next (s'.withCrcUnit t) := by
  rw [exec_withCrcUnit hi, h, mapNext_next]

/-- A packer command on two states: what it does on `s` it does on `s'` once `s'` has the bit-packer of `s`. -/
theorem exec_withPacker_next {i : Instr} (hi : inPackerFamily i = true) {s t : State} (h : exec i s = .next t)
    (s' : State) : exec i (s'.withPacker s) = .next (s'.withPacker t) := by
  rw [exec_withPacker hi, h, mapNext_next]

/-- A CRC command changes no packer register: on its own state too it only carries them along. -/
theorem packer_frame_of_exec {i : Instr} (hi : inCrcFamily i = true) {s t : State} (h : exec i s = .next t) :
    t.rq = s.rq ∧ t.cp = s.cp ∧ t.nf = s.nf ∧ t.txt = s.txt := by
  have hself := exec_withCrcUnit_next hi h s
  rw [State.withCrcUnit_of_eq rfl rfl rfl, h] at hself
  rw [Host.Outcome.next.inj hself]
  exact ⟨rfl, rfl, rfl, rfl⟩

/-- A packer command changes neither CRC, CK nor M: on its own state too it only carries them along. -/
theorem crcUnit_frame_of_exec {i : Instr} (hi : inPackerFamily i = true) {s t : State}
    (h : exec i s = .next t) : t.crc = s.crc ∧ t.ck = s.ck ∧ t.m = s.m := by
  have hself := exec_withPacker_next hi h s
  rw [State.withPacker_of_eq rfl rfl rfl rfl rfl, h] at hself
  rw [Host.Outcome.next.inj hself]
  exact ⟨rfl, rfl, State.m_withPacker s t⟩

/-- Settles O42: a state that agrees with `s` on a unit's registers is itself with that unit of `s`. -/
theorem crcUnitAndPackerAreSeparate : Obligations.CrcUnitAndPackerAreSeparate := by
  refine ⟨fun i s s' hi hcrc hck hst => ?_, fun i s s' hi hrq hcp hnf htxt herr => ?_⟩
  · obtain ⟨t, ht, -⟩ := exec_effect i s
    have ht' := exec_withCrcUnit_next hi ht s'
    rw [State.withCrcUnit_of_eq hcrc hck hst] at ht'
    exact ⟨t, s'.withCrcUnit t, ht, ht', rfl, rfl, rfl, packer_frame_of_exec hi ht⟩
  · obtain ⟨t, ht, -⟩ := exec_effect i s
    have ht' := exec_withPacker_next hi ht s'
    rw [State.withPacker_of_eq hrq hcp hnf htxt herr] at ht'
    exact ⟨t, s'.withPacker t, ht, ht', rfl, rfl, rfl, rfl, (State.err_withPacker s' t).symm,
      crcUnit_frame_of_exec hi ht⟩

end Sys2Proof.Machine
end
